-- ==== Sys2Proof/Word.lean ====
section
/-! DEFINITION. The words of the block: a bit, a byte, and sequences of them (spec/00_scope.md section 6.1). -/

namespace Sys2Proof

/-- A byte: an integer 0 to 255, bit 0 the least significant (00_scope.md section 6.1). -/
abbrev Byte := BitVec 8

/-- A bit: `true` is `1`, `false` is `0`. -/
abbrev Bit := Bool

/-- A byte sequence, element 0 first in time. -/
abbrev Bytes := List Byte

/-- A bitstring in stream order: element 0 is the first in time on the link. -/
abbrev Bits := List Bit

end Sys2Proof
end

