-- ==== Sys2Proof/Config.lean ====
section
/-! DEFINITION. The constants of the block (spec/00_scope.md rules R4 to R6). `CAP` and `RXBUF_MAX` are the two parameters
the spec leaves to the model as arguments (spec/92_eei_decisions.md D6, D14): every definition that depends on one takes it
as an argument, and this hardware's values stand here. No other value is open, so no constant here is opaque. -/

namespace Sys2Proof.Config

/-- The value of the parameter `CAP`, payload bytes per frame, for this hardware (R4, D6). Its legal values are 0 to 255, the
Length field being one byte. -/
def cap : Nat := 15

/-- `BODY_BYTES = CAP + 3` (R6): Destination, Source, Length, padded Payload. -/
def bodyBytes (cap : Nat) : Nat := cap + 3

/-- `FRAME_BYTES = CAP + 4` (R6): the body and the Checksum byte. -/
def frameBytes (cap : Nat) : Nat := cap + 4

/-- `N = 8 * (CAP + 4)` (R6, corrected by 90_conflicts.md C1): unstuffed bits after the delimiter. -/
def frameBits (cap : Nat) : Nat := 8 * frameBytes cap

/-- `M_MAX = floor(N / 7)` (00_scope.md parameter table, 42_framecodec.md R92). -/
def maxStuffBits (cap : Nat) : Nat := frameBits cap / 7

/-- `DELIM = 10101010`, the frame delimiter in stream order (R5). -/
def delim : Bits := [true, false, true, false, true, false, true, false]

/-- `SPAT = 1010101`, what the stuffer looks for (R5). -/
def spat : Bits := [true, false, true, false, true, false, true]

/-- `SREP = 10101011`, what the stuffer sends for `SPAT` and the unstuffer looks for (R5). -/
def srep : Bits := [true, false, true, false, true, false, true, true]

/-- The delimiter as a byte when it starts at a byte boundary: `0x55`, not `0xAA` (20_memory.md R37). -/
def delimByte : Byte := 0x55

/-- The value of the parameter `RXBUF_MAX`, the capacity of `RXBUF` in bits: `none`, unbounded, the spec's reference model
(20_memory.md R46, D14; log 7). -/
def rxbufMax : Option Nat := none

end Sys2Proof.Config
end

