-- ==== Sys2Proof/Syntax.lean ====
section
/-! DEFINITION. The instructions of the block: the fifteen commands of spec/30_encoding.md rule R60 and the frame format
(rule R50), one constructor for each row of spec/opcode_table.json; and what carries them to the block (`Input`). -/

namespace Sys2Proof

/-- One instruction. The first fifteen constructors are the commands of R60 with their operands; `frame` is the table's
row for the frame format of R50 (DESIGN CHOICE, log 1: it stands for that frame reaching the engine over the link). -/
inductive Instr where
  /-- SETLOCAL `ID` (44_control_send.md R120). -/
  | setlocal (id : Byte)
  /-- SETPEER `ID` (R121). -/
  | setpeer (id : Byte)
  /-- OPEN (R122). -/
  | openChan
  /-- CLOSE (R123). -/
  | closeChan
  /-- SEND `BYTES` (R126). -/
  | send (payload : Bytes)
  /-- POLL `BYTES` (43_receive.md R110). -/
  | poll (newBytes : Bytes)
  /-- B2B `BYTES` (40_bitcodec.md R70). -/
  | b2b (bytes : Bytes)
  /-- BITS2B `BITS` (R71). -/
  | bits2b (bits : Bits)
  /-- STUFF `BITS` (R72). -/
  | stuff (bits : Bits)
  /-- UNSTUFF `BITS` (R73). -/
  | unstuff (bits : Bits)
  /-- XORSUM `BYTES` (41_scan_checksum.md R80). -/
  | xorsum (bytes : Bytes)
  /-- DSCAN `BITS` (R82). -/
  | dscan (bits : Bits)
  /-- ENCODE `DST`, `SRC`, `BYTES` (42_framecodec.md R90). -/
  | encode (dst src : Byte) (payload : Bytes)
  /-- DECODE `BITS` (R96). -/
  | decode (bits : Bits)
  /-- SERIALIZE `DST`, `SRC`, `BYTES` (R98). -/
  | serialize (dst src : Byte) (payload : Bytes)
  /-- The frame format of 30_encoding.md R50: Destination, Source, Length, the `CAP` Payload bytes, Checksum. -/
  | frame (dst src len : Byte) (payload : Bytes) (checksum : Byte)
  deriving DecidableEq, Repr

/-- One command as it stands on the command port (R60): the 8-bit `CMD` and the typed operand ports beside it. A command
looks only at the ports the table lists for it. -/
structure Request where
  /-- `CMD`, all 8 bits significant. -/
  cmd : Byte
  /-- Operand port `ID`. -/
  id : Byte := 0
  /-- Operand port `DST`. -/
  dst : Byte := 0
  /-- Operand port `SRC`. -/
  src : Byte := 0
  /-- Operand port `BYTES`, with its length. -/
  bytes : Bytes := []
  /-- Operand port `BITS`, with its length. -/
  bits : Bits := []
  deriving DecidableEq, Repr

/-- The unstuffed image of a frame (R50): bit `i` is the bit at offset `i` of the image, the delimiter not counted.
Its width is `N` at this hardware's `CAP` (R6). -/
abbrev FrameImage := BitVec (Config.frameBits Config.cap)

/-- What the block is given to run next: a command of the host, or a frame off the link (log 1). -/
inductive Input where
  | command (r : Request)
  | frame (image : FrameImage)
  deriving DecidableEq, Repr

end Sys2Proof
end

