-- ==== Sys2Proof/WellFormed.lean ====
section
/-! DEFINITION. Which instructions are well formed. Every operand of every command is legal at every length
(spec/30_encoding.md rule R61); a frame has exactly `CAP` Payload bytes (rule R55). -/

namespace Sys2Proof

/-- Well formed: R61 for the commands (no limit; a payload above `CAP` is answered `PayloadTooLarge`, not refused at the
port), R55 for a frame. -/
def Instr.wf : Instr → Bool
  | .setlocal _ => true
  | .setpeer _ => true
  | .openChan => true
  | .closeChan => true
  | .send _ => true
  | .poll _ => true
  | .b2b _ => true
  | .bits2b _ => true
  | .stuff _ => true
  | .unstuff _ => true
  | .xorsum _ => true
  | .dscan _ => true
  | .encode _ _ _ => true
  | .decode _ => true
  | .serialize _ _ _ => true
  | .frame _ _ _ payload _ => payload.length == Config.cap

end Sys2Proof
end

