-- ==== Sys2Proof/Decode.lean ====
section
/-! DEFINITION. The decoder and the encoder: spec/30_encoding.md rule R60 (command codes and operand ports), rule R64
(reserved codes) and rule R50 (the fields of a frame at their bit offsets in the unstuffed image). -/

namespace Sys2Proof

/-- Why an input is no instruction. -/
inductive DecodeError where
  /-- `CMD` is none of R60's codes (R64); the step answers it with `BadCommand`. -/
  | reservedCode (cmd : Byte)
  deriving DecidableEq, Repr

/-- The byte at byte offset `j` of the protected bytes: bits `8 * j` to `8 * j + 7` of the image, bit 0 first (R50). -/
def imageByte (image : FrameImage) (j : Nat) : Byte := image.extractLsb' (8 * j) 8

/-- The fields of a frame by their offsets (R50). -/
def decodeFrame (image : FrameImage) : Instr :=
  .frame (imageByte image 0) (imageByte image 1) (imageByte image 2)
    ((List.range Config.cap).map fun j => imageByte image (3 + j))
    (imageByte image (Config.cap + 3))

/-- The command on the port (R60), or the reserved code (R64). DEDUCED (log 9): ports the command does not take are not
looked at. -/
def decodeCommand (r : Request) : Except DecodeError Instr :=
  match r.cmd.toNat with
  | 0x01 => .ok (.setlocal r.id)
  | 0x02 => .ok (.setpeer r.id)
  | 0x03 => .ok .openChan
  | 0x04 => .ok .closeChan
  | 0x05 => .ok (.send r.bytes)
  | 0x06 => .ok (.poll r.bytes)
  | 0x10 => .ok (.b2b r.bytes)
  | 0x11 => .ok (.bits2b r.bits)
  | 0x12 => .ok (.stuff r.bits)
  | 0x13 => .ok (.unstuff r.bits)
  | 0x14 => .ok (.xorsum r.bytes)
  | 0x15 => .ok (.dscan r.bits)
  | 0x16 => .ok (.encode r.dst r.src r.bytes)
  | 0x17 => .ok (.decode r.bits)
  | 0x18 => .ok (.serialize r.dst r.src r.bytes)
  | _ => .error (.reservedCode r.cmd)

/-- The decoder, total on every input. -/
def decode : Input → Except DecodeError Instr
  | .command r => decodeCommand r
  | .frame image => .ok (decodeFrame image)

/-- The number whose byte `j` (weight `256 ^ j`) is element `j`. -/
def bytesNat : Bytes → Nat
  | [] => 0
  | b :: rest => b.toNat + 256 * bytesNat rest

/-- The unstuffed image of the given protected bytes (R50). -/
def imageOfBytes (bytes : Bytes) : FrameImage := BitVec.ofNat (Config.frameBits Config.cap) (bytesNat bytes)

/-- The encoder: the command of an instruction with the ports it does not use at 0 or empty (R60), or a frame's image
(R50). -/
def encode : Instr → Input
  | .setlocal id => .command { cmd := 0x01, id := id }
  | .setpeer id => .command { cmd := 0x02, id := id }
  | .openChan => .command { cmd := 0x03 }
  | .closeChan => .command { cmd := 0x04 }
  | .send payload => .command { cmd := 0x05, bytes := payload }
  | .poll newBytes => .command { cmd := 0x06, bytes := newBytes }
  | .b2b bytes => .command { cmd := 0x10, bytes := bytes }
  | .bits2b bits => .command { cmd := 0x11, bits := bits }
  | .stuff bits => .command { cmd := 0x12, bits := bits }
  | .unstuff bits => .command { cmd := 0x13, bits := bits }
  | .xorsum bytes => .command { cmd := 0x14, bytes := bytes }
  | .dscan bits => .command { cmd := 0x15, bits := bits }
  | .encode dst src payload => .command { cmd := 0x16, dst := dst, src := src, bytes := payload }
  | .decode bits => .command { cmd := 0x17, bits := bits }
  | .serialize dst src payload => .command { cmd := 0x18, dst := dst, src := src, bytes := payload }
  | .frame dst src len payload checksum =>
    .frame (imageOfBytes (dst :: src :: len :: (payload ++ [checksum])))

/-- The input that a word of spec/opcode_table.json stands for. A command is its `CMD` byte, every operand port at 0 or
empty (the table gives operands no bits, R60). A word of `8 + N` bits (160) that begins with the delimiter is a frame:
stream bit `j` is bit `j` of the word, so the delimiter is the low byte `0x55` (20_memory.md R37). No other word is an input.
DESIGN CHOICE (log 8). -/
def inputOfWord (nbits w : Nat) : Option Input :=
  if nbits = 8 + Config.frameBits Config.cap then
    if BitVec.ofNat 8 w = Config.delimByte then some (.frame (BitVec.ofNat (Config.frameBits Config.cap) (w / 256)))
    else none
  else if nbits = 8 then some (.command { cmd := BitVec.ofNat 8 w })
  else none

/-- The instruction the decoder reads from a word of the opcode table. -/
def decodeTableWord (nbits w : Nat) : Option Instr :=
  match inputOfWord nbits w with
  | none => none
  | some x => (decode x).toOption

end Sys2Proof
end

