-- ==== Sys2Proof/Machine/State.lean ====
section
/-! DEFINITION. The state of the block and what one step can answer. The spec's own state is `localId`, `peerId` and
`rxbuf` (spec/10_state.md rule R13); the command port, the result ports and the channel's input are the boundary, held
as plain data so that one step can read and write them (log 2 to 4). -/

namespace Sys2Proof.Machine

/-- The nine outcomes (60_exceptions.md R140, codes in 30_encoding.md R62). -/
inductive Status where
  | ok
  | needMoreData
  | noDelimiter
  | checksumMismatch
  | notAddressedToMe
  | lengthOutOfRange
  | payloadTooLarge
  | refused
  | badCommand
  deriving DecidableEq, Repr

/-- POLL's result class on `RESULT`, with the payload of `RBYTES` where there is one (30_encoding.md R63). -/
inductive PollResult where
  | payload (p : Bytes)
  | empty
  | startSymbolNotFound
  | notExecuted
  deriving DecidableEq, Repr

/-- What a command drives on the result ports beside `OUTCOME` (R60): only the ports the table lists for it. -/
inductive Results where
  /-- `OUTCOME` alone. -/
  | none
  /-- `RBITS`. -/
  | bits (rbits : Bits)
  /-- `RBYTES`. -/
  | bytes (rbytes : Bytes)
  /-- `RBYTE`. -/
  | byte (rbyte : Byte)
  /-- `RINDEX`, a natural with its valid bit. -/
  | index (rindex : Option Nat)
  /-- `RESULT` and, for `Payload`, `RBYTES`. -/
  | poll (result : PollResult)
  /-- DECODE with a consumed count but no frame delivered: `RCOUNT`. -/
  | count (rcount : Nat)
  /-- DECODE on `Ok`: `RCOUNT`, the `RBYTE` pair (destination, source) and `RBYTES` = payload. -/
  | decoded (rcount : Nat) (dst src : Byte) (payload : Bytes)
  deriving DecidableEq, Repr

/-- The answer of one command: its outcome and its results (10_state.md R15: "produced afresh by each command"). -/
structure Reply where
  outcome : Status
  results : Results
  deriving DecidableEq, Repr

/-- Why the machine stops. The spec has no trap (60_exceptions.md R140, R146); the two faults are the preconditions of
the buffer primitives, which no command breaks (43_receive.md R116). DEDUCED (log 12). -/
inductive Fault where
  /-- Raised by `rxRead` when `i + n` exceeds `len(RXBUF)` (20_memory.md R31). Safe: the spec gives the read no meaning. -/
  | rxReadRange
  /-- Raised by `rxDrop` when the count exceeds `len(RXBUF)` (20_memory.md R33, U7). Safe: the spec says the removal "must
  never be attempted". -/
  | rxDropRange
  deriving DecidableEq, Repr

/-- Why an instruction has no meaning. -/
inductive Refusal where
  /-- Raised by `exec` alone, for an instruction not yet modelled. Safe: nothing can be proved of what it does. No arm
  raises it now. -/
  | notModelled (mnemonic : String)
  deriving DecidableEq, Repr

/-- The state of one engine (10_state.md R13, R24) and of its boundary. -/
structure State where
  /-- `LOCAL_ID`, `none` until the first SETLOCAL (R10, 70_reset_and_hazards.md R161). -/
  localId : Option Byte
  /-- `PEER_ID`, `none` until the first SETPEER (R11, R161). -/
  peerId : Option Byte
  /-- `RXBUF`, element 0 the oldest bit not yet consumed (R12); a list of bits, not of bytes at addresses (DESIGN CHOICE,
  log 5). -/
  rxbuf : Bits
  /-- The commands the host has issued and the block has not run, oldest first (20_memory.md R42; DESIGN CHOICE, the
  model's own field, log 2). -/
  input : List Input
  /-- The result ports after the last command; `none` before the first (30_encoding.md R60; DESIGN CHOICE, the model's
  own field, log 3). -/
  reply : Option Reply
  /-- The writes handed to the channel, oldest first (20_memory.md R44; DESIGN CHOICE, the model's own field,
  log 4). -/
  chan : List Bytes
  deriving DecidableEq, Repr

/-- Right after power-on reset (70_reset_and_hazards.md R160 to R162): the buffer empty, the identifiers unwritten,
nothing else to reset; no command issued, none answered, nothing written (log 2 to 4). -/
def State.reset : State where
  localId := none
  peerId := none
  rxbuf := []
  input := []
  reply := none
  chan := []

end Sys2Proof.Machine
end

