-- ==== Sys2Proof/Machine/Flags.lean ====
section
/-! DEFINITION. The block has no flags (spec/10_state.md rule R15); what a command reports is its outcome code and, for
POLL, its result class: spec/30_encoding.md rules R62 and R63. Here are their numbers and the views of the result ports. -/

namespace Sys2Proof.Machine

/-- The code on `OUTCOME` (R62). -/
def statusCode : Status → Byte
  | .ok => 0x00
  | .needMoreData => 0x01
  | .noDelimiter => 0x02
  | .checksumMismatch => 0x03
  | .notAddressedToMe => 0x04
  | .lengthOutOfRange => 0x05
  | .payloadTooLarge => 0x10
  | .refused => 0x1E
  | .badCommand => 0x1F

/-- The code on `RESULT`, two bits (R63). -/
def pollResultCode : PollResult → BitVec 2
  | .payload _ => 0
  | .empty => 1
  | .startSymbolNotFound => 2
  | .notExecuted => 3

/-- The result class R63 gives each outcome of POLL. -/
def pollClass : Status → Option (BitVec 2)
  | .ok => some 0
  | .needMoreData => some 1
  | .checksumMismatch => some 1
  | .notAddressedToMe => some 1
  | .lengthOutOfRange => some 1
  | .noDelimiter => some 2
  | .refused => some 3
  | .payloadTooLarge => none
  | .badCommand => none

/-- `OUTCOME`. -/
def Reply.outcomePort (r : Reply) : Byte := statusCode r.outcome

/-- `RESULT`, driven by POLL only (R60). -/
def Reply.resultPort (r : Reply) : Option (BitVec 2) :=
  match r.results with
  | .poll p => some (pollResultCode p)
  | .none => none
  | .bits _ => none
  | .bytes _ => none
  | .byte _ => none
  | .index _ => none
  | .count _ => none
  | .decoded _ _ _ _ => none

/-- `RBYTES`. -/
def Reply.rbytesPort (r : Reply) : Option Bytes :=
  match r.results with
  | .bytes b => some b
  | .poll (.payload p) => some p
  | .decoded _ _ _ p => some p
  | .poll .empty => none
  | .poll .startSymbolNotFound => none
  | .poll .notExecuted => none
  | .none => none
  | .bits _ => none
  | .byte _ => none
  | .index _ => none
  | .count _ => none

/-- `RBITS`. -/
def Reply.rbitsPort (r : Reply) : Option Bits :=
  match r.results with
  | .bits b => some b
  | .none => none
  | .bytes _ => none
  | .byte _ => none
  | .index _ => none
  | .poll _ => none
  | .count _ => none
  | .decoded _ _ _ _ => none

/-- `RBYTE`: one byte for XORSUM, the pair destination and source for DECODE (R60). -/
def Reply.rbytePort (r : Reply) : Bytes :=
  match r.results with
  | .byte b => [b]
  | .decoded _ dst src _ => [dst, src]
  | .none => []
  | .bits _ => []
  | .bytes _ => []
  | .index _ => []
  | .poll _ => []
  | .count _ => []

/-- `RINDEX` with its valid bit. -/
def Reply.rindexPort (r : Reply) : Option Nat :=
  match r.results with
  | .index k => k
  | .none => none
  | .bits _ => none
  | .bytes _ => none
  | .byte _ => none
  | .poll _ => none
  | .count _ => none
  | .decoded _ _ _ _ => none

/-- `RCOUNT` with its valid bit. -/
def Reply.rcountPort (r : Reply) : Option Nat :=
  match r.results with
  | .count c => some c
  | .decoded c _ _ _ => some c
  | .none => none
  | .bits _ => none
  | .bytes _ => none
  | .byte _ => none
  | .index _ => none
  | .poll _ => none

end Sys2Proof.Machine
end

