-- ==== Sys2Proof/Machine/Operands.lean ====
section
/-! DEFINITION. The two operand forms of the block, byte sequences and bitstrings, and the conversions between them:
spec/40_bitcodec.md rules R70 (B2B) and R71 (BITS2B), bit order of spec/20_memory.md rule R35. -/

namespace Sys2Proof.Machine

/-- The eight bits of a byte, least significant first (R35). -/
def byteBits (b : Byte) : Bits :=
  [b.getLsbD 0, b.getLsbD 1, b.getLsbD 2, b.getLsbD 3, b.getLsbD 4, b.getLsbD 5, b.getLsbD 6, b.getLsbD 7]

/-- `B2B` (R70): bit `8 * j + i` of the result is bit `i` of byte `j`. -/
def b2b : Bytes → Bits
  | [] => []
  | b :: rest => byteBits b ++ b2b rest

/-- The number whose bit `i` is element `i`. -/
def bitsNat : Bits → Nat
  | [] => 0
  | b :: rest => b.toNat + 2 * bitsNat rest

/-- The byte that up to eight bits make, its missing high bits 0 (R71). -/
def bitsByte (s : Bits) : Byte := BitVec.ofNat 8 (bitsNat s)

/-- `BITS2B` (R71): groups of eight from the front; a last group of 1 to 7 bits is padded with zeros on the high end. -/
def bits2b : Bits → Bytes
  | [] => []
  | b0 :: b1 :: b2 :: b3 :: b4 :: b5 :: b6 :: b7 :: rest => bitsByte [b0, b1, b2, b3, b4, b5, b6, b7] :: bits2b rest
  | s => [bitsByte s]

end Sys2Proof.Machine
end

