-- ==== Sys2Proof/Machine/Scan.lean ====
section
/-! DEFINITION. The XOR checksum unit and the frame delimiter scanner: spec/41_scan_checksum.md rules R80 (XORSUM) and
R82 (DSCAN). -/

namespace Sys2Proof.Machine

/-- `XORSUM` (R80): the exclusive or of all bytes, `0x00` of none. -/
def xorsum : Bytes → Byte
  | [] => 0
  | b :: rest => b ^^^ xorsum rest

/-- `DSCAN` (R82): the smallest index at which the next 8 bits are `DELIM`, at any bit offset; `none` if there is none. -/
def dscan : Bits → Option Nat
  | [] => none
  | b :: rest => if (b :: rest).take 8 = Config.delim then some 0 else (dscan rest).map (· + 1)

end Sys2Proof.Machine
end

