-- ==== Sys2Proof/Machine/Stuffing.lean ====
section
/-! DEFINITION. The bit-stuff encoder and decoder: spec/40_bitcodec.md rules R72 (STUFF), R73 (UNSTUFF), and their
streaming forms R75 and R76. -/

namespace Sys2Proof.Machine

/-- `STUFF` (R72): where the next 7 bits are `SPAT = 1010101`, they and one `1` bit go out and the scan resumes after
them; elsewhere one bit is copied. -/
def stuff : Bits → Bits
  | true :: false :: true :: false :: true :: false :: true :: rest => Config.srep ++ stuff rest
  | b :: rest => b :: stuff rest
  | [] => []

/-- `UNSTUFF` (R73): where the next 8 bits are `SREP = 10101011`, the first 7 go out and the eighth is dropped;
elsewhere one bit is copied. -/
def unstuff : Bits → Bits
  | true :: false :: true :: false :: true :: false :: true :: true :: rest => Config.spat ++ unstuff rest
  | b :: rest => b :: unstuff rest
  | [] => []

/-- `m`, the number of matches STUFF finds (R72 corner case d). -/
def stuffCount : Bits → Nat
  | true :: false :: true :: false :: true :: false :: true :: rest => stuffCount rest + 1
  | _ :: rest => stuffCount rest
  | [] => 0

/-- Whether STUFF's output ends in a stuff bit: its last match ends at the last bit of the input (42_framecodec.md
R94). -/
def endsInMatch : Bits → Bool
  | true :: false :: true :: false :: true :: false :: true :: rest => rest.isEmpty || endsInMatch rest
  | _ :: rest => endsInMatch rest
  | [] => false

/-- The three-case update of the match counter (R75). -/
def matchStep (k : Nat) (b : Bit) : Nat :=
  if k = 0 then (if b then 1 else 0)
  else if k % 2 = 1 then (if b then 1 else k + 1)
  else (if b then k + 1 else 0)

/-- The streaming stuffer (R75) with its counter `k`, 0 at the start of a bitstring. -/
def stuffStream : Nat → Bits → Bits
  | _, [] => []
  | k, b :: rest =>
    if matchStep k b = 7 then b :: true :: stuffStream 0 rest
    else b :: stuffStream (matchStep k b) rest

/-- The streaming unstuffer (R76) with its counter `k`, 0 at the start of a bitstring. -/
def unstuffStream : Nat → Bits → Bits
  | _, [] => []
  | k, b :: rest =>
    if k = 7 then (if b then unstuffStream 0 rest else b :: unstuffStream 6 rest)
    else b :: unstuffStream (matchStep k b) rest

end Sys2Proof.Machine
end

