-- ==== Sys2Proof/Machine/Framing.lean ====
section
/-! DEFINITION. Building and parsing one frame: spec/42_framecodec.md rules R90 (ENCODE), R93 (RESOLVE), R95 (consumed
count), R96 (DECODE), R98 (SERIALIZE), over the layout of spec/30_encoding.md rules R50 to R57. `cap` is the parameter
`CAP` (spec/00_scope.md rule R4). -/

namespace Sys2Proof.Machine

/-- The body (R90 step 2): Destination, Source, Length, and the payload padded with `0x00` to `CAP` bytes. -/
def frameBody (cap : Nat) (dst src : Byte) (payload : Bytes) : Bytes :=
  dst :: src :: BitVec.ofNat 8 payload.length :: (payload ++ List.replicate (cap - payload.length) 0)

/-- The protected bytes (R90 step 3): the body and its XOR. -/
def protectedBytes (cap : Nat) (dst src : Byte) (payload : Bytes) : Bytes :=
  frameBody cap dst src payload ++ [xorsum (frameBody cap dst src payload)]

/-- The encoded frame of given protected bytes (30_encoding.md R57): the delimiter, never stuffed (R51), then the
stuffed image. -/
def encodedFrame (bytes : Bytes) : Bits := Config.delim ++ stuff (b2b bytes)

/-- `ENCODE` (R90): `none` is `PayloadTooLarge`. -/
def encodeFrame (cap : Nat) (dst src : Byte) (payload : Bytes) : Option Bits :=
  if cap < payload.length then none else some (encodedFrame (protectedBytes cap dst src payload))

/-- `SERIALIZE` (R98): the wire image, `BITS2B` of the encoded frame; `none` is `PayloadTooLarge`. -/
def serializeFrame (cap : Nat) (dst src : Byte) (payload : Bytes) : Option Bytes :=
  (encodeFrame cap dst src payload).map bits2b

/-- `RESOLVE` (R93): the smallest window of the candidate that unstuffs to exactly `N` bits. -/
def resolve (cap : Nat) (cand : Bits) : Option Nat :=
  (List.range (cand.length + 1)).find? fun w => (unstuff (cand.take w)).length == Config.frameBits cap

/-- The streaming form of RESOLVE (R93, last sentence): `need` bits are still to be emitted, `k` is the unstuffer's
counter, `w` the bits taken so far. -/
def resolveStream : (need k w : Nat) → Bits → Option Nat
  | 0, _, w, _ => some w
  | _ + 1, _, _, [] => none
  | need + 1, k, w, b :: rest =>
    if k = 7 then
      (if b then resolveStream (need + 1) 0 (w + 1) rest else resolveStream need 6 (w + 1) rest)
    else resolveStream need (matchStep k b) (w + 1) rest

/-- What DECODE can find (R96); a consumed count where there is one (R95, 60_exceptions.md R141). -/
inductive Parsed where
  | noDelimiter
  | needMoreData
  | checksumMismatch (consumed : Nat)
  | notAddressedToMe (consumed : Nat)
  | lengthOutOfRange (consumed : Nat)
  | ok (consumed : Nat) (dst src : Byte) (payload : Bytes)
  deriving DecidableEq, Repr

/-- The consumed count of an outcome that has one (R95): `NoDelimiter` and `NeedMoreData` have none, not a zero one. -/
def consumedOf : Parsed → Option Nat
  | .noDelimiter => none
  | .needMoreData => none
  | .checksumMismatch c => some c
  | .notAddressedToMe c => some c
  | .lengthOutOfRange c => some c
  | .ok c _ _ _ => some c

/-- Byte `j` of the recovered bytes (30_encoding.md R50). A resolved window holds `FRAME_BYTES` bytes, so the default is
never read (DEDUCED, log 13). -/
def fieldByte (bytes : Bytes) (j : Nat) : Byte := bytes.getD j 0

/-- Steps 3 to 5 of DECODE (R96) on the recovered bytes: checksum, then address, then length. -/
def judgeFrame (cap : Nat) (localId : Byte) (consumed : Nat) (bytes : Bytes) : Parsed :=
  if xorsum bytes ≠ 0 then .checksumMismatch consumed
  else if fieldByte bytes 0 ≠ localId then .notAddressedToMe consumed
  else if cap < (fieldByte bytes 2).toNat then .lengthOutOfRange consumed
  else .ok consumed (fieldByte bytes 0) (fieldByte bytes 1) ((bytes.drop 3).take (fieldByte bytes 2).toNat)

/-- `DECODE` (R96) for an engine whose `LOCAL_ID` holds `localId`: the first delimiter, the window after it, then the
three tests. The consumed count is `k + 8 + W` (R95). -/
def parseFrame (cap : Nat) (localId : Byte) (raw : Bits) : Parsed :=
  match dscan raw with
  | none => .noDelimiter
  | some k =>
    match resolve cap (raw.drop (k + 8)) with
    | none => .needMoreData
    | some w => judgeFrame cap localId (k + 8 + w) (bits2b (unstuff ((raw.drop (k + 8)).take w)))

end Sys2Proof.Machine
end

