-- ==== Sys2Proof/Machine/Ops.lean ====
section
/-! DEFINITION. The named operations on the state: the four buffer primitives of spec/20_memory.md rules R31 to R34, the
channel write of rule R44, returning an outcome (the block's only "exception", spec/60_exceptions.md rule R145), and
taking the next command. -/

namespace Sys2Proof.Machine

/-- `RxRead(i, n)` (R31): requires `i + n <= len(RXBUF)`; changes nothing. -/
def rxRead (i n : Nat) (s : State) : Except Fault Bits :=
  if i + n ≤ s.rxbuf.length then .ok ((s.rxbuf.drop i).take n) else .error .rxReadRange

/-- `RxAll()` (R31): the whole buffer. -/
def rxAll (s : State) : Bits := s.rxbuf

/-- `RxAppend(bits)` (R32). -/
def rxAppend (bits : Bits) (s : State) : State := { s with rxbuf := s.rxbuf ++ bits }

/-- `RxDrop(n)` (R33): requires `n <= len(RXBUF)`; whoever calls it makes the precondition hold or faults. -/
def rxDrop (n : Nat) (s : State) : Except Fault State :=
  if n ≤ s.rxbuf.length then .ok { s with rxbuf := s.rxbuf.drop n } else .error .rxDropRange

/-- `RxClear()` (R34). -/
def rxClear (s : State) : State := { s with rxbuf := [] }

/-- `ChanWrite(bytes)` (R44): one write, after every earlier one (R42). -/
def chanWrite (bytes : Bytes) (s : State) : State := { s with chan := s.chan ++ [bytes] }

/-- Returning an outcome to the host: the whole of "trap entry" and of command completion (60_exceptions.md R145, R147).
No state of the block is saved or changed. -/
def answer (outcome : Status) (results : Results) (s : State) : State := { s with reply := some ⟨outcome, results⟩ }

/-- `MidAssembly` (10_state.md R17): the buffer holds a delimiter. -/
def midAssembly (s : State) : Bool := (dscan (rxAll s)).isSome

/-- Whether `extra` more bits fit into a buffer of `max` bits, `none` being unbounded (20_memory.md R46, U5). -/
def rxFits (max : Option Nat) (extra : Nat) (s : State) : Bool :=
  match max with
  | none => true
  | some m => s.rxbuf.length + extra ≤ m

/-- A reserved command code (30_encoding.md R64): nothing is done and the host is told, and the
block goes on (DEDUCED, log 6). -/
def badCommand (s : State) : State := answer .badCommand .none s

/-- The oldest input not yet run, and the state without it (20_memory.md R42). -/
def takeInput (s : State) : Option (Input × State) :=
  match s.input with
  | [] => none
  | x :: rest => some (x, { s with input := rest })

/-- Puts an input where the next step takes it. -/
def putInput (x : Input) (s : State) : State := { s with input := x :: s.input }

end Sys2Proof.Machine
end

