-- ==== Sys2Proof/Machine/BitCodec.lean ====
section
/-! DEFINITION. B2B, BITS2B, STUFF and UNSTUFF as commands (spec/40_bitcodec.md rules R70 to R73): pure, `Ok` always. -/

namespace Sys2Proof.Machine

/-- B2B (R70). -/
def execB2b (bytes : Bytes) (s : State) : Host.Outcome State Fault Refusal :=
  .next (answer .ok (.bits (b2b bytes)) s)

/-- BITS2B (R71). -/
def execBits2b (bits : Bits) (s : State) : Host.Outcome State Fault Refusal :=
  .next (answer .ok (.bytes (bits2b bits)) s)

/-- STUFF (R72). -/
def execStuff (bits : Bits) (s : State) : Host.Outcome State Fault Refusal :=
  .next (answer .ok (.bits (stuff bits)) s)

/-- UNSTUFF (R73): it never rejects its input (30_encoding.md R65). -/
def execUnstuff (bits : Bits) (s : State) : Host.Outcome State Fault Refusal :=
  .next (answer .ok (.bits (unstuff bits)) s)

end Sys2Proof.Machine
end

