-- ==== Sys2Proof/Machine/Control.lean ====
section
/-! DEFINITION. SETLOCAL, SETPEER, OPEN, CLOSE and SEND (spec/44_control_send.md rules R120 to R129). -/

namespace Sys2Proof.Machine

/-- SETLOCAL (R120): refused while `MidAssembly` holds. -/
def execSetlocal (id : Byte) (s : State) : Host.Outcome State Fault Refusal :=
  if midAssembly s then .next (answer .refused .none s)
  else .next (answer .ok .none { s with localId := some id })

/-- SETPEER (R121): refused while `MidAssembly` holds. -/
def execSetpeer (id : Byte) (s : State) : Host.Outcome State Fault Refusal :=
  if midAssembly s then .next (answer .refused .none s)
  else .next (answer .ok .none { s with peerId := some id })

/-- OPEN (R122). -/
def execOpenChan (s : State) : Host.Outcome State Fault Refusal :=
  .next (answer .ok .none (rxClear s))

/-- CLOSE (R123). -/
def execCloseChan (s : State) : Host.Outcome State Fault Refusal :=
  .next (answer .ok .none (rxClear s))

/-- SEND (R126) in a block of capacity `cap` (00_scope.md R4): refused while an identifier is unwritten (R129), then
`PayloadTooLarge`, else one channel write of `SERIALIZE(PEER_ID, LOCAL_ID, payload)`. -/
def sendWith (cap : Nat) (payload : Bytes) (s : State) : Host.Outcome State Fault Refusal :=
  match s.localId, s.peerId with
  | none, _ => .next (answer .refused .none s)
  | some _, none => .next (answer .refused .none s)
  | some l, some p =>
    match serializeFrame cap p l payload with
    | none => .next (answer .payloadTooLarge .none s)
    | some bytes => .next (answer .ok .none (chanWrite bytes s))

/-- SEND (R126). -/
def execSend (payload : Bytes) (s : State) : Host.Outcome State Fault Refusal :=
  sendWith Config.cap payload s

end Sys2Proof.Machine
end

