-- ==== Sys2Proof/Machine/FrameCodec.lean ====
section
/-! DEFINITION. ENCODE, DECODE and SERIALIZE as commands (spec/42_framecodec.md rules R90, R96, R98). None writes state;
DECODE reads `LOCAL_ID`. Each is given for every `CAP` (00_scope.md R4), then at this hardware's. -/

namespace Sys2Proof.Machine

/-- ENCODE (R90) in a block of capacity `cap`. -/
def encodeWith (cap : Nat) (dst src : Byte) (payload : Bytes) (s : State) : Host.Outcome State Fault Refusal :=
  match encodeFrame cap dst src payload with
  | none => .next (answer .payloadTooLarge .none s)
  | some bits => .next (answer .ok (.bits bits) s)

/-- The outcome and results DECODE reports for what it found (R96, 60_exceptions.md R141). -/
def decodeReply : Parsed → Status × Results
  | .noDelimiter => (.noDelimiter, .none)
  | .needMoreData => (.needMoreData, .none)
  | .checksumMismatch c => (.checksumMismatch, .count c)
  | .notAddressedToMe c => (.notAddressedToMe, .count c)
  | .lengthOutOfRange c => (.lengthOutOfRange, .count c)
  | .ok c dst src payload => (.ok, .decoded c dst src payload)

/-- DECODE (R96) in a block of capacity `cap`: refused while `LOCAL_ID` is unwritten (44_control_send.md R129); works on its
operand, not on `RXBUF`. -/
def decodeWith (cap : Nat) (bits : Bits) (s : State) : Host.Outcome State Fault Refusal :=
  match s.localId with
  | none => .next (answer .refused .none s)
  | some id => .next (answer (decodeReply (parseFrame cap id bits)).1 (decodeReply (parseFrame cap id bits)).2 s)

/-- SERIALIZE (R98) in a block of capacity `cap`. -/
def serializeWith (cap : Nat) (dst src : Byte) (payload : Bytes) (s : State) : Host.Outcome State Fault Refusal :=
  match serializeFrame cap dst src payload with
  | none => .next (answer .payloadTooLarge .none s)
  | some bytes => .next (answer .ok (.bytes bytes) s)

/-- ENCODE (R90). -/
def execEncode (dst src : Byte) (payload : Bytes) (s : State) : Host.Outcome State Fault Refusal :=
  encodeWith Config.cap dst src payload s

/-- DECODE (R96). -/
def execDecode (bits : Bits) (s : State) : Host.Outcome State Fault Refusal :=
  decodeWith Config.cap bits s

/-- SERIALIZE (R98). -/
def execSerialize (dst src : Byte) (payload : Bytes) (s : State) : Host.Outcome State Fault Refusal :=
  serializeWith Config.cap dst src payload s

end Sys2Proof.Machine
end

