-- ==== Sys2Proof/Machine/Receive.lean ====
section
/-! DEFINITION. POLL (spec/43_receive.md rule R110) and a frame off the link (spec/30_encoding.md rule R50; log 1). -/

namespace Sys2Proof.Machine

/-- Removes a resolved count from the front of the buffer and returns the outcome (R110 steps 5 and 6, R116). -/
def dropAndAnswer (consumed : Nat) (outcome : Status) (result : PollResult) (s : State) :
    Host.Outcome State Fault Refusal :=
  match rxDrop consumed s with
  | .error f => .fault f
  | .ok s' => .next (answer outcome (.poll result) s')

/-- Steps 3 to 6 of POLL: what is done with the buffer for each outcome of DECODE on it (R110, 60_exceptions.md R145). -/
def applyParsed (o : Parsed) (s : State) : Host.Outcome State Fault Refusal :=
  match o with
  | .noDelimiter => .next (answer .noDelimiter (.poll .startSymbolNotFound) (rxClear s))
  | .needMoreData => .next (answer .needMoreData (.poll .empty) s)
  | .checksumMismatch c => dropAndAnswer c .checksumMismatch .empty s
  | .notAddressedToMe c => dropAndAnswer c .notAddressedToMe .empty s
  | .lengthOutOfRange c => dropAndAnswer c .lengthOutOfRange .empty s
  | .ok c _ _ payload => dropAndAnswer c .ok (.payload payload) s

/-- POLL in a block of capacity `cap` (00_scope.md R4) whose buffer holds at most `max` bits, `none` being unbounded (R110;
a bounded buffer refuses the whole POLL whose
append would overflow, 20_memory.md R46, U5). A refused POLL appends nothing (D28). -/
def pollWith (cap : Nat) (max : Option Nat) (newBytes : Bytes) (s : State) : Host.Outcome State Fault Refusal :=
  match s.localId with
  | none => .next (answer .refused (.poll .notExecuted) s)
  | some id =>
    if rxFits max (8 * newBytes.length) s then
      applyParsed (parseFrame cap id (rxAll (rxAppend (b2b newBytes) s))) (rxAppend (b2b newBytes) s)
    else .next (answer .refused (.poll .notExecuted) s)

/-- POLL (R110). -/
def execPoll (newBytes : Bytes) (s : State) : Host.Outcome State Fault Refusal :=
  pollWith Config.cap Config.rxbufMax newBytes s

/-- A frame off the link (30_encoding.md R50). DESIGN CHOICE (log 1): the frame is no command; the host sees its wire
image (R57: `BITS2B` of the delimiter and the stuffed image) arrive whole and hands it to POLL, which is how bytes become
visible to the block (60_exceptions.md R150). Its checksum and Length are whatever the sender put there. -/
def execFrame (dst src len : Byte) (payload : Bytes) (checksum : Byte) (s : State) :
    Host.Outcome State Fault Refusal :=
  pollWith Config.cap Config.rxbufMax (bits2b (encodedFrame (dst :: src :: len :: (payload ++ [checksum])))) s

end Sys2Proof.Machine
end

