-- ==== Sys2Proof/Machine/ScanChecksum.lean ====
section
/-! DEFINITION. XORSUM and DSCAN as commands (spec/41_scan_checksum.md rules R80 and R82): pure, `Ok` always. -/

namespace Sys2Proof.Machine

/-- XORSUM (R80). -/
def execXorsum (bytes : Bytes) (s : State) : Host.Outcome State Fault Refusal :=
  .next (answer .ok (.byte (xorsum bytes)) s)

/-- DSCAN (R82): a search that finds nothing is `Ok` with `RINDEX` not valid. -/
def execDscan (bits : Bits) (s : State) : Host.Outcome State Fault Refusal :=
  .next (answer .ok (.index (dscan bits)) s)

end Sys2Proof.Machine
end

