-- ==== Sys2Proof/Machine/Dispatch.lean ====
section
/-! DEFINITION. One arm for each row of spec/opcode_table.json. -/

namespace Sys2Proof.Machine

def exec (i : Instr) (s : State) : Host.Outcome State Fault Refusal :=
  match i with
  | .setlocal id => Sys2Proof.Machine.execSetlocal id s
  | .setpeer id => Sys2Proof.Machine.execSetpeer id s
  | .openChan => Sys2Proof.Machine.execOpenChan s
  | .closeChan => Sys2Proof.Machine.execCloseChan s
  | .send payload => Sys2Proof.Machine.execSend payload s
  | .poll newBytes => Sys2Proof.Machine.execPoll newBytes s
  | .b2b bytes => Sys2Proof.Machine.execB2b bytes s
  | .bits2b bits => Sys2Proof.Machine.execBits2b bits s
  | .stuff bits => Sys2Proof.Machine.execStuff bits s
  | .unstuff bits => Sys2Proof.Machine.execUnstuff bits s
  | .xorsum bytes => Sys2Proof.Machine.execXorsum bytes s
  | .dscan bits => Sys2Proof.Machine.execDscan bits s
  | .encode dst src payload => Sys2Proof.Machine.execEncode dst src payload s
  | .decode bits => Sys2Proof.Machine.execDecode bits s
  | .serialize dst src payload => Sys2Proof.Machine.execSerialize dst src payload s
  | .frame dst src len payload checksum => Sys2Proof.Machine.execFrame dst src len payload checksum s

end Sys2Proof.Machine
end

