-- ==== Sys2Proof/Machine/Step.lean ====
section
/-! DEFINITION. One step: the block takes the oldest command the host has issued, decodes it and runs it, atomically
(spec/00_scope.md rules R7 and R8, spec/20_memory.md rule R42). -/

namespace Sys2Proof.Machine

/-- One step. With no command issued the block is idle and holds its state (60_exceptions.md R157). A reserved code is
answered `BadCommand` (30_encoding.md R64). Two commands that overlap have no move (log 10). -/
def step (s : State) : Host.Outcome State Fault Refusal :=
  match takeInput s with
  | none => .next s
  | some (x, s') =>
    match decode x with
    | .error _ => .next (badCommand s')
    | .ok i => exec i s'

/-- `s` with the instruction of an opcode-table word at the front of the command port, where the next step takes it. A
word that is no input changes nothing. -/
def State.withFetchWord (s : State) (nbits w : Nat) : State :=
  match inputOfWord nbits w with
  | none => s
  | some x => putInput x s

end Sys2Proof.Machine
end

