-- ==== Sys2Proof/Machine/Session.lean ====
section
/-! DEFINITION. What a host does with more than one command, written over the commands' own meanings: a sequence of
commands, the pseudo-commands REOPEN and DRAIN (spec/30_encoding.md rule R68), the drain idiom of
spec/70_reset_and_hazards.md rule R173, and a byte stream handed to POLL in chunks
(spec/43_receive.md rules R117 and R118). Nothing here is state of the block. -/

namespace Sys2Proof.Machine

/-- Commands one after the other, each taking effect completely before the next (20_memory.md R42). -/
def execAll : List Instr → State → Host.Outcome State Fault Refusal
  | [], s => .next s
  | i :: rest, s =>
    match exec i s with
    | .next t => execAll rest t
    | .fault f => .fault f
    | .refused r => .refused r

/-- `REOPEN` is `CLOSE` followed by `OPEN` (R68). -/
def reopen : List Instr := [.closeChan, .openChan]

/-- The payload the last command delivered, if it was a POLL that delivered one (30_encoding.md R63). -/
def delivered (s : State) : List Bytes :=
  match s.reply with
  | some ⟨.ok, .poll (.payload p)⟩ => [p]
  | _ => []

/-- One POLL for each chunk; the payloads delivered, in order, and the state after the last. -/
def pollAll : List Bytes → State → List Bytes × State
  | [], s => ([], s)
  | c :: rest, s =>
    match exec (.poll c) s with
    | .next t => (delivered t ++ (pollAll rest t).1, (pollAll rest t).2)
    | .fault _ => ([], s)
    | .refused _ => ([], s)

/-- Whether the last command was a POLL that resolved a window, delivered or dropped: the outcomes after which R173 has the
host POLL again (60_exceptions.md R141 names the ones with a consumed count). -/
def resolvedFrame (s : State) : Bool :=
  match s.reply with
  | some ⟨.ok, .poll _⟩ => true
  | some ⟨.checksumMismatch, .poll _⟩ => true
  | some ⟨.notAddressedToMe, .poll _⟩ => true
  | some ⟨.lengthOutOfRange, .poll _⟩ => true
  | _ => false

/-- At most `n` POLLs with no bytes, going on while `again` holds after a POLL: the payloads delivered, in order, and the
state after the last. Where the loop ends is `again`, on which R68 and R173 differ (DESIGN CHOICE, log 15). -/
def drainFor (again : State → Bool) : Nat → State → List Bytes × State
  | 0, s => ([], s)
  | n + 1, s =>
    match exec (.poll []) s with
    | .next t =>
      if again t then (delivered t ++ (drainFor again n t).1, (drainFor again n t).2) else (delivered t, t)
    | .fault _ => ([], s)
    | .refused _ => ([], s)

/-- `DRAIN`: `POLL []` repeated until its result is not `Payload` (R68, D26). DESIGN CHOICE (log 15): R173 words the idiom
to go on past a dropped frame, R68 does not; the name DRAIN follows R68's definition, and R173's loop is `drainToEnd`.
Each delivery consumes bits of the buffer, so as many POLLs as the buffer has bits, and one, are enough (DEDUCED,
log 15). -/
def drain (s : State) : List Bytes × State := drainFor (fun t => delivered t != []) (s.rxbuf.length + 1) s

/-- The host's idiom as R173 words it: `POLL []` repeated past delivered and dropped frames alike, until the result is
`Empty` with `NeedMoreData`, or `StartSymbolNotFound` (or the POLL is refused, of which R173 says nothing). DESIGN CHOICE
and DEDUCED as for `drain` (log 15). -/
def drainToEnd (s : State) : List Bytes × State := drainFor resolvedFrame (s.rxbuf.length + 1) s

end Sys2Proof.Machine
end

