-- ==== Sys2Proof/Safety.lean ====
section
/-! DEFINITION. What the statements call safe: the access table of spec/10_state.md rule R22, the outcomes each command
may return (spec/60_exceptions.md rule R140), the form of a channel write (spec/44_control_send.md rule R127), and the
invariant of the machine. -/

namespace Sys2Proof.Machine

/-- The commands that may write `LOCAL_ID` (R22). -/
def writesLocal : Instr → Bool
  | .setlocal _ => true
  | .setpeer _ | .openChan | .closeChan | .send _ | .poll _ | .b2b _ | .bits2b _ | .stuff _ | .unstuff _ | .xorsum _
  | .dscan _ | .encode _ _ _ | .decode _ | .serialize _ _ _ | .frame _ _ _ _ _ => false

/-- The commands that may write `PEER_ID` (R22). -/
def writesPeer : Instr → Bool
  | .setpeer _ => true
  | .setlocal _ | .openChan | .closeChan | .send _ | .poll _ | .b2b _ | .bits2b _ | .stuff _ | .unstuff _ | .xorsum _
  | .dscan _ | .encode _ _ _ | .decode _ | .serialize _ _ _ | .frame _ _ _ _ _ => false

/-- The commands that may write `RXBUF` (R22); a frame off the link is a POLL (log 1). -/
def writesBuffer : Instr → Bool
  | .openChan | .closeChan | .poll _ | .frame _ _ _ _ _ => true
  | .setlocal _ | .setpeer _ | .send _ | .b2b _ | .bits2b _ | .stuff _ | .unstuff _ | .xorsum _
  | .dscan _ | .encode _ _ _ | .decode _ | .serialize _ _ _ => false

/-- The commands that may write to the channel (R22). -/
def writesChannel : Instr → Bool
  | .send _ => true
  | .setlocal _ | .setpeer _ | .openChan | .closeChan | .poll _ | .b2b _ | .bits2b _ | .stuff _ | .unstuff _ | .xorsum _
  | .dscan _ | .encode _ _ _ | .decode _ | .serialize _ _ _ | .frame _ _ _ _ _ => false

/-- The commands that read `LOCAL_ID` (R22). -/
def readsLocal : Instr → Bool
  | .send _ | .poll _ | .decode _ | .frame _ _ _ _ _ => true
  | .setlocal _ | .setpeer _ | .openChan | .closeChan | .b2b _ | .bits2b _ | .stuff _ | .unstuff _ | .xorsum _
  | .dscan _ | .encode _ _ _ | .serialize _ _ _ => false

/-- The commands that read `PEER_ID` (R22). -/
def readsPeer : Instr → Bool
  | .send _ => true
  | .setlocal _ | .setpeer _ | .openChan | .closeChan | .poll _ | .b2b _ | .bits2b _ | .stuff _ | .unstuff _ | .xorsum _
  | .dscan _ | .encode _ _ _ | .decode _ | .serialize _ _ _ | .frame _ _ _ _ _ => false

/-- The commands that read `RXBUF` (R22). -/
def readsBuffer : Instr → Bool
  | .setlocal _ | .setpeer _ | .poll _ | .frame _ _ _ _ _ => true
  | .openChan | .closeChan | .send _ | .b2b _ | .bits2b _ | .stuff _ | .unstuff _ | .xorsum _
  | .dscan _ | .encode _ _ _ | .decode _ | .serialize _ _ _ => false

/-- The outcomes each command may return (30_encoding.md R62, 60_exceptions.md R140). -/
def outcomesOf : Instr → List Status
  | .setlocal _ | .setpeer _ => [.ok, .refused]
  | .openChan | .closeChan => [.ok]
  | .send _ => [.ok, .refused, .payloadTooLarge]
  | .poll _ | .decode _ | .frame _ _ _ _ _ =>
    [.ok, .needMoreData, .noDelimiter, .checksumMismatch, .notAddressedToMe, .lengthOutOfRange, .refused]
  | .b2b _ | .bits2b _ | .stuff _ | .unstuff _ | .xorsum _ | .dscan _ => [.ok]
  | .encode _ _ _ | .serialize _ _ _ => [.ok, .payloadTooLarge]

/-- The form of every write to the channel (44_control_send.md R127 b): it begins with `0x55` and has `CAP + 5` to
`CAP + 5 + ceil(M_MAX / 8)` bytes, 20 to 23. -/
abbrev WireImage (w : Bytes) : Prop :=
  w.head? = some Config.delimByte ∧ Config.cap + 5 ≤ w.length ∧ w.length ≤ Config.cap + 5 + (Config.maxStuffBits Config.cap + 7) / 8

/-- What every reply is like: POLL's result class is the one its outcome has (30_encoding.md R63), and no command delivers
more than `CAP` payload bytes (42_framecodec.md R96). -/
def Reply.Sound (r : Reply) : Prop :=
  match r.results with
  | .poll (.payload p) => r.outcome = .ok ∧ p.length ≤ Config.cap
  | .poll .empty => pollClass r.outcome = some 1
  | .poll .startSymbolNotFound => r.outcome = .noDelimiter
  | .poll .notExecuted => r.outcome = .refused
  | .decoded c _ _ p => r.outcome = .ok ∧ p.length ≤ Config.cap ∧ 8 + Config.frameBits Config.cap ≤ c
  | .count c => (r.outcome = .checksumMismatch ∨ r.outcome = .notAddressedToMe ∨ r.outcome = .lengthOutOfRange) ∧
      8 + Config.frameBits Config.cap ≤ c
  | .bits _ | .bytes _ | .byte _ | .index _ => r.outcome = .ok
  | .none => True

/-- The invariant of the machine. -/
structure State.Inv (s : State) : Prop where
  /-- The buffer stays empty until `LOCAL_ID` is written (44_control_send.md R120 corner case a). -/
  buffer_empty : s.localId = none → s.rxbuf = []
  /-- Every write the channel got is a wire image (R127 b). -/
  writes : ∀ w ∈ s.chan, WireImage w
  /-- The last reply is sound. -/
  reply_sound : ∀ r, s.reply = some r → r.Sound

end Sys2Proof.Machine
end

