-- ==== Sys2Proof/Certificates/Slice0/Obligations.lean ====
section
/-! DEFINITION. The statements for the provers, one Prop each, in the order of OBLIGATIONS.json. Each docstring names the
rule of spec/ it formalises; a rule the spec itself marks as derived, or a choice of this model, is said to be so. -/

open Sys2Proof Sys2Proof.Machine

/-! ## Encoding and the step -/

/-- 30_encoding.md sections 1 and 3 (R50, R60): the decoder gives back every well-formed instruction, with every operand
at every value. -/
def Obligations.DecodeOfEncodeIsTheInstruction : Prop :=
  ∀ i : Instr, i.wf = true → decode (encode i) = .ok i

/-- 30_encoding.md sections 1 and 3: what the decoder gives is well formed; a frame's bits are all kept, and a command's
code is. -/
def Obligations.DecodedInstructionKeepsTheBits : Prop :=
  ∀ (x : Input) (i : Instr), decode x = .ok i →
    i.wf = true ∧ (∀ image, x = .frame image → encode i = x) ∧
      ∀ r, x = .command r → ∃ r', encode i = .command r' ∧ r'.cmd = r.cmd

/-- 30_encoding.md section 3, the command table (R60, codes chosen by the spec, D3): each code and the operand ports its
command takes. -/
def Obligations.EveryTableCodeDecodesToItsCommand : Prop :=
  ∀ r : Request,
    (r.cmd = 0x01 → decode (.command r) = .ok (.setlocal r.id)) ∧
    (r.cmd = 0x02 → decode (.command r) = .ok (.setpeer r.id)) ∧
    (r.cmd = 0x03 → decode (.command r) = .ok .openChan) ∧
    (r.cmd = 0x04 → decode (.command r) = .ok .closeChan) ∧
    (r.cmd = 0x05 → decode (.command r) = .ok (.send r.bytes)) ∧
    (r.cmd = 0x06 → decode (.command r) = .ok (.poll r.bytes)) ∧
    (r.cmd = 0x10 → decode (.command r) = .ok (.b2b r.bytes)) ∧
    (r.cmd = 0x11 → decode (.command r) = .ok (.bits2b r.bits)) ∧
    (r.cmd = 0x12 → decode (.command r) = .ok (.stuff r.bits)) ∧
    (r.cmd = 0x13 → decode (.command r) = .ok (.unstuff r.bits)) ∧
    (r.cmd = 0x14 → decode (.command r) = .ok (.xorsum r.bytes)) ∧
    (r.cmd = 0x15 → decode (.command r) = .ok (.dscan r.bits)) ∧
    (r.cmd = 0x16 → decode (.command r) = .ok (.encode r.dst r.src r.bytes)) ∧
    (r.cmd = 0x17 → decode (.command r) = .ok (.decode r.bits)) ∧
    (r.cmd = 0x18 → decode (.command r) = .ok (.serialize r.dst r.src r.bytes))

/-- R64 (the codes are the spec's choice, D3 and D5): a reserved code changes no state, writes nothing and returns
`BadCommand`; every other code is a command. The command leaves the port and its reply stands on the result ports. -/
def Obligations.ReservedCodeAnswersBadCommand : Prop :=
  statusCode .badCommand = 0x1F ∧
  ∀ (s : State) (r : Request) (rest : List Input), s.input = .command r :: rest →
    if r.cmd = 0x00 ∨ (0x07 ≤ r.cmd ∧ r.cmd ≤ 0x0F) ∨ (0x19 ≤ r.cmd ∧ r.cmd ≤ 0xFF) then
      step s = .next { s with input := rest, reply := some ⟨.badCommand, .none⟩ }
    else ∃ i, decode (.command r) = .ok i ∧ step s = exec i { s with input := rest }

/-- A few words written out from the table (30_encoding.md sections 1 and 3); a sanity statement. That an 8-bit word is the
command with every operand port at 0 or empty, and that a 160-bit word is a frame in stream order, is this model's choice
(DESIGN CHOICE, log 8). -/
def Obligations.SampleWordsDecode : Prop :=
  decodeTableWord 8 0x01 = some (.setlocal 0) ∧ decodeTableWord 8 0x06 = some (.poll []) ∧
  decodeTableWord 8 0x10 = some (.b2b []) ∧ decodeTableWord 8 0x15 = some (.dscan []) ∧
  decodeTableWord 8 0x18 = some (.serialize 0 0 []) ∧ decodeTableWord 8 0x07 = none ∧
  decodeTableWord 160 0x2300000000000000000000000000694802010155 =
    some (.frame 0x01 0x01 0x02 (0x48 :: 0x69 :: List.replicate 13 0) 0x23)

/-- 00_scope.md sections 5 (R7, R8) and 20_memory.md section 6 (R42): the step takes the oldest command and runs it whole,
on the state without it; with none issued the block holds its state (60_exceptions.md R157, which the spec marks as derived). -/
def Obligations.StepRunsTheDecodedInstruction : Prop :=
  (∀ (s : State) (x : Input) (rest : List Input) (i : Instr), s.input = x :: rest → decode x = .ok i →
    step s = exec i { s with input := rest }) ∧
  ∀ s : State, s.input = [] → step s = .next s

/-! ## Reset, outcomes, invariants -/

/-- R160 (the spec's choice, D19), with the identifiers of R161 beside it. -/
def Obligations.ResetLeavesTheBufferEmpty : Prop :=
  State.reset.rxbuf = [] ∧ State.reset.localId = none ∧ State.reset.peerId = none

/-- R161 (the spec's choice, D13): no value after reset, `some v` after a successful write of `v` and by nothing else, never
none again, and the commands that need an unwritten identifier are refused. -/
def Obligations.IdentifiersHoldNoValueUntilWritten : Prop :=
  State.reset.localId = none ∧ State.reset.peerId = none ∧
  (∀ s t : State, step s = .next t →
    (s.localId ≠ none → t.localId ≠ none) ∧ (s.peerId ≠ none → t.peerId ≠ none) ∧
    (s.localId = none → t.localId ≠ none →
      ∃ x rest id, s.input = x :: rest ∧ decode x = .ok (.setlocal id) ∧ t.localId = some id) ∧
    (s.peerId = none → t.peerId ≠ none →
      ∃ x rest id, s.input = x :: rest ∧ decode x = .ok (.setpeer id) ∧ t.peerId = some id)) ∧
  (∀ (v : Byte) (s : State), ∃ t u, exec (.setlocal v) s = .next t ∧ exec (.setpeer v) s = .next u ∧
    (t.reply = some ⟨.ok, .none⟩ → t.localId = some v) ∧ (u.reply = some ⟨.ok, .none⟩ → u.peerId = some v) ∧
    (s.rxbuf = [] → t.reply = some ⟨.ok, .none⟩ ∧ u.reply = some ⟨.ok, .none⟩)) ∧
  ∀ s : State,
    (s.localId = none → ∀ b, exec (.decode b) s = .next { s with reply := some ⟨.refused, .none⟩ }) ∧
    (s.localId = none → ∀ b, exec (.poll b) s = .next { s with reply := some ⟨.refused, .poll .notExecuted⟩ }) ∧
    (s.localId = none ∨ s.peerId = none → ∀ b, exec (.send b) s = .next { s with reply := some ⟨.refused, .none⟩ })

/-- R129 (the spec's choice, D13): DECODE, POLL and SEND are refused and do nothing while an identifier they need is
unwritten; no command that does not read the identifiers is refused on this ground. -/
def Obligations.UnwrittenIdentifierRefuses : Prop :=
  (∀ (s : State) (b : Bits), s.localId = none → exec (.decode b) s = .next { s with reply := some ⟨.refused, .none⟩ }) ∧
  (∀ (s : State) (b : Bytes), s.localId = none →
    exec (.poll b) s = .next { s with reply := some ⟨.refused, .poll .notExecuted⟩ }) ∧
  (∀ (s : State) (b : Bytes), (s.localId = none ∨ s.peerId = none) →
    exec (.send b) s = .next { s with reply := some ⟨.refused, .none⟩ }) ∧
  ∀ (i : Instr) (s : State) (l p : Option Byte), readsLocal i = false → readsPeer i = false →
    ∃ t u, exec i s = .next t ∧ exec i { s with localId := l, peerId := p } = .next u ∧ t.reply = u.reply

/-- 30_encoding.md section 4 (R62) and 60_exceptions.md section 1 (R140): every command answers a next state, with one of
the outcomes the table lists for it, and `RESULT` is driven by POLL only (and by a frame off the link, log 1). -/
def Obligations.EveryCommandAnswersOneOfItsOutcomes : Prop :=
  ∀ (i : Instr) (s : State), ∃ t r, exec i s = .next t ∧ t.reply = some r ∧ r.outcome ∈ outcomesOf i ∧
    r.resultPort = (match i with | .poll _ => pollClass r.outcome | .frame _ _ _ _ _ => pollClass r.outcome | _ => none)

/-- R63 (the spec's choice, D16): POLL's result class is a function of its outcome, with the codes 0 to 3. -/
def Obligations.PollResultIsAFunctionOfTheOutcome : Prop :=
  ∀ (newBytes : Bytes) (s : State), ∃ t o p, exec (.poll newBytes) s = .next t ∧ t.reply = some ⟨o, .poll p⟩ ∧
    (o = .ok → ∃ q, p = .payload q ∧ (Reply.rbytesPort ⟨o, .poll p⟩) = some q ∧ pollResultCode p = 0) ∧
    (o = .needMoreData ∨ o = .checksumMismatch ∨ o = .notAddressedToMe ∨ o = .lengthOutOfRange →
      p = .empty ∧ pollResultCode p = 1) ∧
    (o = .noDelimiter → p = .startSymbolNotFound ∧ pollResultCode p = 2) ∧
    (o = .refused → p = .notExecuted ∧ pollResultCode p = 3) ∧
    o ≠ .payloadTooLarge ∧ o ≠ .badCommand

/-- 30_encoding.md section 4 (R62; the numbers are the spec's choice, D4): the code of each outcome. -/
def Obligations.OutcomeCodesAreTheTable : Prop :=
  [Status.ok, .needMoreData, .noDelimiter, .checksumMismatch, .notAddressedToMe, .lengthOutOfRange, .payloadTooLarge,
    .refused, .badCommand].map statusCode = [0x00, 0x01, 0x02, 0x03, 0x04, 0x05, 0x10, 0x1E, 0x1F]

/-- 60_exceptions.md section 3 (R146): no outcome is fatal, so every step answers a next state, and what a command does, its
writes to the channel included, depends on nothing but `LOCAL_ID`, `PEER_ID` and `RXBUF`. That Refused and BadCommand are
next states is DEDUCED (log 6); that the step with no command holds the state is R157, which the spec marks as derived, and
the list of commands is the model's (log 2). -/
def Obligations.NoOutcomeIsFatal : Prop :=
  (∀ s : State, ∃ t, step s = .next t) ∧
  ∀ (i : Instr) (s s' : State), s.localId = s'.localId → s.peerId = s'.peerId → s.rxbuf = s'.rxbuf →
    ∃ t t', exec i s = .next t ∧ exec i s' = .next t' ∧ t.reply = t'.reply ∧ t.localId = t'.localId ∧
      t.peerId = t'.peerId ∧ t.rxbuf = t'.rxbuf ∧ ∃ w, t.chan = s.chan ++ w ∧ t'.chan = s'.chan ++ w

/-- Every step keeps the invariant (44_control_send.md R120 corner case a, R127 b; 30_encoding.md R63; 42_framecodec.md
R95, R96), from every state that meets it. -/
def Obligations.EveryStepKeepsTheInvariant : Prop :=
  ∀ s t : State, s.Inv → step s = .next t → t.Inv

/-- The invariant holds at reset. -/
def Obligations.ResetMeetsTheInvariant : Prop := State.reset.Inv

/-- R22 (which the spec marks as derived): a command neither writes nor reads a piece of state that the access table does
not list for it. The table has no row for the constructor frame; that it reads and writes as POLL does is this model's
choice (DESIGN CHOICE, log 1). Two states that agree on what a command reads give the same reply, the same writes and, where a piece is
written, the same value. -/
def Obligations.CommandsTouchOnlyWhatTheTableLists : Prop :=
  (∀ (i : Instr) (s t : State), exec i s = .next t →
    (writesLocal i = false → t.localId = s.localId) ∧ (writesPeer i = false → t.peerId = s.peerId) ∧
    (writesBuffer i = false → t.rxbuf = s.rxbuf) ∧ (writesChannel i = false → t.chan = s.chan) ∧ t.input = s.input) ∧
  ∀ (i : Instr) (s s' : State), (readsLocal i = true → s.localId = s'.localId) →
    (readsPeer i = true → s.peerId = s'.peerId) → (readsBuffer i = true → s.rxbuf = s'.rxbuf) →
    ∃ t t', exec i s = .next t ∧ exec i s' = .next t' ∧ t.reply = t'.reply ∧
      ((t.localId = s.localId ∧ t'.localId = s'.localId) ∨ t.localId = t'.localId) ∧
      ((t.peerId = s.peerId ∧ t'.peerId = s'.peerId) ∨ t.peerId = t'.peerId) ∧
      ((t.rxbuf = s.rxbuf ∧ t'.rxbuf = s'.rxbuf) ∨ t.rxbuf = t'.rxbuf) ∧
      ∃ w, t.chan = s.chan ++ w ∧ t'.chan = s'.chan ++ w

/-! ## Control and SEND -/

/-- R120 and R121 (refusing is the spec's choice, D12), `MidAssembly` as R17 reads it: the buffer holds a `DELIM`. Frame:
nothing but the named register and the reply changes. -/
def Obligations.IdentifierWritesAreRefusedMidAssembly : Prop :=
  ∀ (id : Byte) (s : State),
    ((∃ k, (s.rxbuf.drop k).take 8 = Config.delim) →
      exec (.setlocal id) s = .next { s with reply := some ⟨.refused, .none⟩ } ∧
      exec (.setpeer id) s = .next { s with reply := some ⟨.refused, .none⟩ }) ∧
    ((∀ k, (s.rxbuf.drop k).take 8 ≠ Config.delim) →
      exec (.setlocal id) s = .next { s with localId := some id, reply := some ⟨.ok, .none⟩ } ∧
      exec (.setpeer id) s = .next { s with peerId := some id, reply := some ⟨.ok, .none⟩ })

/-- R122 and R123: OPEN and CLOSE clear `RXBUF` and change nothing else, in every state. -/
def Obligations.OpenAndCloseClearOnlyTheBuffer : Prop :=
  ∀ s : State,
    exec .openChan s = .next { s with rxbuf := [], reply := some ⟨.ok, .none⟩ } ∧
    exec .closeChan s = .next { s with rxbuf := [], reply := some ⟨.ok, .none⟩ }

/-- R126 (address fields and one write per frame are the spec's choices, D10 and D11), with the frame written out: the
Destination is `PEER_ID`, the Source `LOCAL_ID`. Refused comes before PayloadTooLarge (R144). Frame: only the channel and
the reply change. -/
def Obligations.SendWritesOneWireImage : Prop :=
  ∀ (payload : Bytes) (s : State),
    (s.localId = none ∨ s.peerId = none →
      exec (.send payload) s = .next { s with reply := some ⟨.refused, .none⟩ }) ∧
    ∀ l p, s.localId = some l → s.peerId = some p →
      (15 < payload.length → exec (.send payload) s = .next { s with reply := some ⟨.payloadTooLarge, .none⟩ }) ∧
      (payload.length ≤ 15 → ∃ body w,
        body = [p, l, BitVec.ofNat 8 payload.length] ++ payload ++ List.replicate (15 - payload.length) 0 ∧
        w = bits2b (Config.delim ++ stuff (b2b (body ++ [body.foldl (· ^^^ ·) 0]))) ∧
        exec (.serialize p l payload) s = .next { s with reply := some ⟨.ok, .bytes w⟩ } ∧
        exec (.send payload) s = .next { s with chan := s.chan ++ [w], reply := some ⟨.ok, .none⟩ })

/-- 70_reset_and_hazards.md section 3 (R178, which the spec marks as derived): the new identifier is used by the very next
command. -/
def Obligations.IdentifierWriteTakesEffectAtOnce : Prop :=
  ∀ (v : Byte) (s t : State) (newBytes : Bytes), exec (.setlocal v) s = .next t → t.reply = some ⟨.ok, .none⟩ →
    t = { s with localId := some v, reply := some ⟨.ok, .none⟩ } ∧
    exec (.poll newBytes) t = exec (.poll newBytes) { s with localId := some v }

/-- 44_control_send.md, the laws of SEND (R127 c and d, which the spec marks as derived): the bytes A's SEND writes,
delivered whole to B's POLL with an empty buffer, give the payload at B when A's `PEER_ID` is B's `LOCAL_ID`. A and B may be
one engine. -/
def Obligations.SentPayloadIsReceived : Prop :=
  ∀ (a b : State) (payload : Bytes) (d l : Byte), payload.length ≤ 15 → a.peerId = some d → a.localId = some l →
    b.localId = some d → b.rxbuf = [] →
    ∃ a' w b', exec (.send payload) a = .next a' ∧ a'.chan = a.chan ++ [w] ∧ WireImage w ∧
      exec (.poll w) b = .next b' ∧ b'.reply = some ⟨.ok, .poll (.payload payload)⟩

/-- 30_encoding.md section 6 (R68, notation chosen by the spec, D26) and R123 corner case a: REOPEN has the effect of
either of its commands alone. -/
def Obligations.ReopenIsEitherCommandAlone : Prop :=
  ∀ s : State, execAll reopen s = exec .openChan s ∧ execAll reopen s = exec .closeChan s

/-! ## Bits, bytes, stuffing -/

/-- R70: `8 * n` bits, bit `8 * j + i` is bit `i` of byte `j`. -/
def Obligations.B2bIsLeastSignificantBitFirst : Prop :=
  ∀ (bytes : Bytes) (s : State), ∃ r,
    exec (.b2b bytes) s = .next { s with reply := some ⟨.ok, .bits r⟩ } ∧ r.length = 8 * bytes.length ∧
    ∀ j i b, bytes[j]? = some b → i < 8 → r[8 * j + i]? = some (b.getLsbD i)

/-- 40_bitcodec.md, BITS2B (R71): `ceil(L / 8)` bytes, bit `i` of byte `j` is `s[8 * j + i]` where that is a bit of the
string and `0` otherwise; with the two laws R71 adds, which the spec marks as derived. -/
def Obligations.Bits2bPadsTheHighEnd : Prop :=
  (∀ (bits : Bits) (s : State), ∃ r,
    exec (.bits2b bits) s = .next { s with reply := some ⟨.ok, .bytes r⟩ } ∧ r.length = (bits.length + 7) / 8 ∧
    ∀ j i b, r[j]? = some b → i < 8 → b.getLsbD i = (bits[8 * j + i]?).getD false) ∧
  (∀ bytes : Bytes, bits2b (b2b bytes) = bytes) ∧
  ∀ bits : Bits, b2b (bits2b bits) = bits ++ List.replicate ((8 - bits.length % 8) % 8) false

/-- R72: the left-to-right, non-overlapping scan. The three clauses fix the result for every bitstring; the fourth is R72's
length (corner case d). -/
def Obligations.StuffScansLeftToRight : Prop :=
  (∀ s : State, exec (.stuff []) s = .next { s with reply := some ⟨.ok, .bits []⟩ }) ∧
  (∀ (rest : Bits) (s : State), exec (.stuff (Config.spat ++ rest)) s =
    .next { s with reply := some ⟨.ok, .bits (Config.spat ++ true :: stuff rest)⟩ }) ∧
  (∀ (b : Bit) (rest : Bits) (s : State), (b :: rest).take 7 ≠ Config.spat →
    exec (.stuff (b :: rest)) s = .next { s with reply := some ⟨.ok, .bits (b :: stuff rest)⟩ }) ∧
  ∀ bits : Bits, (stuff bits).length = bits.length + stuffCount bits ∧ stuffCount bits ≤ bits.length / 7

/-- R73: the left-to-right, non-overlapping scan, which never rejects its input. The three clauses fix the result for every
bitstring. -/
def Obligations.UnstuffScansLeftToRight : Prop :=
  (∀ s : State, exec (.unstuff []) s = .next { s with reply := some ⟨.ok, .bits []⟩ }) ∧
  (∀ (rest : Bits) (s : State), exec (.unstuff (Config.srep ++ rest)) s =
    .next { s with reply := some ⟨.ok, .bits (Config.spat ++ unstuff rest)⟩ }) ∧
  ∀ (b : Bit) (rest : Bits) (s : State), (b :: rest).take 8 ≠ Config.srep →
    exec (.unstuff (b :: rest)) s = .next { s with reply := some ⟨.ok, .bits (b :: unstuff rest)⟩ }

/-- R74: UNSTUFF undoes STUFF on every bitstring, STUFF is injective, and the converse holds exactly on the image of
STUFF. -/
def Obligations.UnstuffInvertsStuff : Prop :=
  (∀ s : Bits, unstuff (stuff s) = s) ∧ (∀ s t : Bits, stuff s = stuff t → s = t) ∧
  ∀ t : Bits, stuff (unstuff t) = t ↔ ∃ s, stuff s = t

/-- 40_bitcodec.md, the laws of the pair (R75, which the spec marks as derived): the streaming stuffer. -/
def Obligations.StreamingStufferEqualsStuff : Prop :=
  ∀ (bits : Bits) (s : State), exec (.stuff bits) s = .next { s with reply := some ⟨.ok, .bits (stuffStream 0 bits)⟩ }

/-- 40_bitcodec.md, the laws of the pair (R76, which the spec marks as derived): the streaming unstuffer. -/
def Obligations.StreamingUnstufferEqualsUnstuff : Prop :=
  ∀ (bits : Bits) (s : State),
    exec (.unstuff bits) s = .next { s with reply := some ⟨.ok, .bits (unstuffStream 0 bits)⟩ }

/-- 40_bitcodec.md, the laws of the pair (R77 a and b, which the spec marks as derived): the unstuffed length of a prefix
grows by 0 or 1 a bit, and a prefix unstuffs to a prefix. -/
def Obligations.UnstuffIsPrefixStable : Prop :=
  ∀ (t : Bits) (w : Nat), w < t.length →
    unstuff (t.take w) <+: unstuff (t.take (w + 1)) ∧
    ((unstuff (t.take (w + 1))).length = (unstuff (t.take w)).length ∨
      (unstuff (t.take (w + 1))).length = (unstuff (t.take w)).length + 1)

/-! ## Checksum and scanner -/

/-- R80: bit `i` of the result is 1 exactly when an odd number of the bytes have bit `i` set; so the XOR of no bytes is
`0x00` and the order of the bytes does not matter. -/
def Obligations.XorsumIsTheParityOfEachColumn : Prop :=
  ∀ (bytes : Bytes) (s : State), ∃ v,
    exec (.xorsum bytes) s = .next { s with reply := some ⟨.ok, .byte v⟩ } ∧
    ∀ i, i < 8 → (v.getLsbD i = true ↔ (bytes.countP fun b => b.getLsbD i) % 2 = 1)

/-- 41_scan_checksum.md (R81): exactly the XOR of the body, appended to it, makes the whole XOR to zero. -/
def Obligations.ChecksumByteMakesTheXorZero : Prop :=
  ∀ (body : Bytes) (c : Byte) (s : State), ∃ v,
    exec (.xorsum (body ++ [c])) s = .next { s with reply := some ⟨.ok, .byte v⟩ } ∧
    (v = 0 ↔ exec (.xorsum body) s = .next { s with reply := some ⟨.ok, .byte c⟩ })

/-- 41_scan_checksum.md (R83, which the spec marks as derived): a corruption of good protected bytes passes the checksum
exactly when it flips an even number of bits in every column. -/
def Obligations.ChecksumMissesOnlyEvenColumns : Prop :=
  ∀ sent got : Bytes, sent.length = got.length → xorsum sent = 0 →
    (xorsum got = 0 ↔
      ∀ i, i < 8 → ((List.zipWith (fun a b => a ^^^ b) sent got).countP fun e => e.getLsbD i) % 2 = 0)

/-- 70_reset_and_hazards.md section 3 (R179, which the spec marks as derived): the XOR of a good frame's bytes shifted by
`j` bits depends only on the low `j` bits of its first byte and of the byte after it. -/
def Obligations.BitSlipPassesOnMatchingLowBits : Prop :=
  ∀ (b0 : Byte) (rest : Bytes) (after : Byte) (j : Nat), 1 ≤ j → j ≤ 7 → xorsum (b0 :: rest) = 0 →
    xorsum (List.zipWith (fun (b next : Byte) => (b >>> j) ||| (next <<< (8 - j))) (b0 :: rest) (rest ++ [after])) =
      (b0 ^^^ after) <<< (8 - j)

/-- R82 (leftmost is the spec's choice, D7): the smallest index at which the next eight bits are `DELIM`, at any bit
offset, or none. -/
def Obligations.DscanFindsTheLeftmostDelimiter : Prop :=
  ∀ (bits : Bits) (s : State), ∃ r,
    exec (.dscan bits) s = .next { s with reply := some ⟨.ok, .index r⟩ } ∧
    (∀ k, r = some k ↔ (bits.drop k).take 8 = Config.delim ∧ ∀ j, j < k → (bits.drop j).take 8 ≠ Config.delim) ∧
    (r = none ↔ ∀ k, (bits.drop k).take 8 ≠ Config.delim)

/-- 41_scan_checksum.md, R82 corner case e (which the spec marks as derived): appended bits never move the first
delimiter. -/
def Obligations.AppendedBitsNeverMoveTheFirstDelimiter : Prop :=
  ∀ s t : Bits, (∀ k, dscan s = some k → dscan (s ++ t) = some k) ∧
    (∀ k, dscan s = none → dscan (s ++ t) = some k → s.length < k + 8)

/-! ## Building and parsing a frame -/

/-- R90: PayloadTooLarge above `CAP`, else the delimiter and the stuffed bits of the body and its XOR, the body written
out. -/
def Obligations.EncodeBuildsTheFrame : Prop :=
  ∀ (dst src : Byte) (payload : Bytes) (s : State),
    (15 < payload.length →
      exec (.encode dst src payload) s = .next { s with reply := some ⟨.payloadTooLarge, .none⟩ }) ∧
    (payload.length ≤ 15 → ∃ body,
      body = [dst, src, BitVec.ofNat 8 payload.length] ++ payload ++ List.replicate (15 - payload.length) 0 ∧
      exec (.encode dst src payload) s = .next { s with
        reply := some ⟨.ok, .bits ([true, false, true, false, true, false, true, false] ++
          stuff (b2b (body ++ [body.foldl (· ^^^ ·) 0])))⟩ })

/-- R50, for every `CAP` (R4): the fields of a frame, each at its bit offsets in the unstuffed image, after the eight bits of
the delimiter: Destination 0 to 7, Source 8 to 15, Length 16 to 23, Payload 24 to `8 * CAP + 23` (zero-padded; 143 at 15),
Checksum `8 * CAP + 24` to `8 * CAP + 31` (144 to 151). -/
def Obligations.EncodedFrameHasTheFieldLayout : Prop :=
  ∀ (cap : Nat) (dst src : Byte) (payload : Bytes) (e : Bits), encodeFrame cap dst src payload = some e →
    e.take 8 = Config.delim ∧ ∃ image, image = unstuff (e.drop 8) ∧ image.length = 8 * (cap + 4) ∧
      (image.take 8 = b2b [dst]) ∧ ((image.drop 8).take 8 = b2b [src]) ∧
      ((image.drop 16).take 8 = b2b [BitVec.ofNat 8 payload.length]) ∧
      ((image.drop 24).take (8 * cap) = b2b (payload ++ List.replicate (cap - payload.length) 0)) ∧
      (image.drop (8 * cap + 24) = b2b [xorsum (bits2b (image.take (8 * cap + 24)))]) ∧ xorsum (bits2b image) = 0

/-- R98 (one write of `BITS2B` is the spec's choice, D11): the wire image begins with `0x55`, has `CAP + 5 + ceil(m / 8)`
bytes, and its bits are the encoded frame and then `(-m) mod 8` zeros. -/
def Obligations.SerializeGivesTheWireImage : Prop :=
  ∀ (dst src : Byte) (payload : Bytes) (s : State),
    (15 < payload.length →
      exec (.serialize dst src payload) s = .next { s with reply := some ⟨.payloadTooLarge, .none⟩ }) ∧
    (payload.length ≤ 15 → ∃ e w m, encodeFrame Config.cap dst src payload = some e ∧ m + 160 = e.length ∧
      exec (.serialize dst src payload) s = .next { s with reply := some ⟨.ok, .bytes w⟩ } ∧
      w.head? = some 0x55 ∧ w.length = 20 + (m + 7) / 8 ∧
      b2b w = e ++ List.replicate ((8 - m % 8) % 8) false)

/-- 42_framecodec.md (R91 and R92, which the spec marks as derived), for every `CAP` (R4): `8 + N + m` bits, `m` at most
`floor(N / 7)`, and `CAP + 5 + ceil(m / 8)` bytes (160 to 181 bits and 20 to 23 bytes at 15). -/
def Obligations.EncodedFrameLengthIsBounded : Prop :=
  ∀ (cap : Nat) (dst src : Byte) (payload : Bytes) (e : Bits), encodeFrame cap dst src payload = some e →
    ∃ m, m = stuffCount (b2b (protectedBytes cap dst src payload)) ∧
      e.length = 8 + 8 * (cap + 4) + m ∧ m ≤ 8 * (cap + 4) / 7 ∧ (bits2b e).length = cap + 5 + (m + 7) / 8 ∧
      (cap = 15 → 160 ≤ e.length ∧ e.length ≤ 181 ∧ 20 ≤ (bits2b e).length ∧ (bits2b e).length ≤ 23)

/-- R93 (one bit at a time is the spec's choice, D25), for every `CAP` (R4): the smallest window that unstuffs to exactly
`N = 8 * (CAP + 4)` bits. -/
def Obligations.ResolveFindsTheSmallestWindow : Prop :=
  ∀ (cap : Nat) (cand : Bits),
    (∀ w, resolve cap cand = some w ↔
      w ≤ cand.length ∧ (unstuff (cand.take w)).length = 8 * (cap + 4) ∧
        ∀ v, v < w → (unstuff (cand.take v)).length ≠ 8 * (cap + 4)) ∧
    (resolve cap cand = none ↔ ∀ w, w ≤ cand.length → (unstuff (cand.take w)).length ≠ 8 * (cap + 4))

/-- 42_framecodec.md, the properties of RESOLVE (R93, which the spec marks as derived), for every `CAP` (R4): bounds, later
bits do not matter, it succeeds once the whole candidate has enough bits, and the streaming form gives the same window. -/
def Obligations.ResolveIsBoundedStableAndStreams : Prop :=
  ∀ (cap n : Nat) (cand : Bits), n = 8 * (cap + 4) →
    (∀ w, resolve cap cand = some w → n ≤ w ∧ w ≤ n + w / 8 ∧ ∀ t, resolve cap (cand ++ t) = some w) ∧
    (resolve cap cand = none ↔ (unstuff cand).length < n) ∧
    (resolve cap cand = none → cand.length < n + n / 7 + 1) ∧
    resolveStream n 0 0 cand = resolve cap cand

/-- R95 and R96 (the consumed count, the length test and its place are the spec's choices, D8, D9): DECODE on every
operand, for every `LOCAL_ID`. Frame: nothing but the reply changes. -/
def Obligations.DecodeReportsTheFirstFailingTest : Prop :=
  ∀ (raw : Bits) (s : State),
    (s.localId = none → exec (.decode raw) s = .next { s with reply := some ⟨.refused, .none⟩ }) ∧
    ∀ id, s.localId = some id →
      (dscan raw = none → exec (.decode raw) s = .next { s with reply := some ⟨.noDelimiter, .none⟩ }) ∧
      (∀ k, dscan raw = some k → resolve Config.cap (raw.drop (k + 8)) = none →
        exec (.decode raw) s = .next { s with reply := some ⟨.needMoreData, .none⟩ }) ∧
      ∀ k w, dscan raw = some k → resolve Config.cap (raw.drop (k + 8)) = some w →
        ∃ dst src len rest c, bits2b (unstuff ((raw.drop (k + 8)).take w)) = dst :: src :: len :: rest ∧
          rest.length = 16 ∧ c = k + 8 + w ∧ 160 ≤ c ∧ c ≤ raw.length ∧
          exec (.decode raw) s = .next { s with
            reply := some (if xorsum (dst :: src :: len :: rest) ≠ 0 then ⟨.checksumMismatch, .count c⟩
              else if dst ≠ id then ⟨.notAddressedToMe, .count c⟩
              else if 15 < len.toNat then ⟨.lengthOutOfRange, .count c⟩
              else ⟨.ok, .decoded c dst src (rest.take len.toNat)⟩) }

/-- 42_framecodec.md, the laws of ENCODE and DECODE (R97 a, b, c, e, which the spec marks as derived): an encoded frame is
recovered whatever follows it, and whatever precedes it that does not bring the first delimiter forward; the consumed
count leaves out a trailing stuff bit (R94). -/
def Obligations.DecodeRecoversAnEncodedFrame : Prop :=
  ∀ (dst src : Byte) (payload : Bytes) (before e after : Bits) (s : State) (id : Byte), s.localId = some id →
    encodeFrame Config.cap dst src payload = some e → dscan (before ++ Config.delim) = some before.length →
    ∃ c, c + (if endsInMatch (b2b (protectedBytes Config.cap dst src payload)) then 1 else 0) = before.length + e.length ∧
      exec (.decode (before ++ e ++ after)) s = .next { s with
        reply := some (if dst = id then ⟨.ok, .decoded c dst src payload⟩ else ⟨.notAddressedToMe, .count c⟩) }

/-- 42_framecodec.md, the laws of ENCODE and DECODE (R97 d, which the spec marks as derived): every shorter prefix of an
encoded frame needs more data, or has no delimiter yet. -/
def Obligations.IncompleteFrameNeedsMoreData : Prop :=
  ∀ (dst src : Byte) (payload : Bytes) (e : Bits) (s : State) (id : Byte) (j c : Nat), s.localId = some id →
    encodeFrame Config.cap dst src payload = some e →
    c + (if endsInMatch (b2b (protectedBytes Config.cap dst src payload)) then 1 else 0) = e.length → j < c →
    exec (.decode (e.take j)) s =
      .next { s with reply := some ⟨if j < 8 then .noDelimiter else .needMoreData, .none⟩ }

/-- 42_framecodec.md (R99, which the spec marks as derived), for every `CAP` of R4: the bytes of a wire image decode to the
frame, and what is left over is the trailing stuff bit, if there is one, and the pad zeros: at most eight bits. -/
def Obligations.WireImageDecodesAndLeavesItsTail : Prop :=
  ∀ (cap : Nat) (dst src : Byte) (payload w : Bytes), cap ≤ 255 → serializeFrame cap dst src payload = some w →
    ∃ c m, m = stuffCount (b2b (protectedBytes cap dst src payload)) ∧
      parseFrame cap dst (b2b w) = .ok c dst src payload ∧ c ≤ (b2b w).length ∧ ((b2b w).drop c).length ≤ 8 ∧
      (b2b w).drop c = (if endsInMatch (b2b (protectedBytes cap dst src payload)) then [true] else []) ++
        List.replicate ((8 - m % 8) % 8) false

/-! ## The receive buffer and POLL -/

/-- 20_memory.md section 1 (R31 to R34): what each primitive does where its precondition holds; the two faults where it does
not (the spec gives no effect there; that the model stops by name is DEDUCED, log 12). After `RxDrop(n)` the bit at index `n + i` has index `i` (10_state.md R18). -/
def Obligations.BufferPrimitives : Prop :=
  ∀ (i n : Nat) (s : State),
    (i + n ≤ s.rxbuf.length → ∃ b, rxRead i n s = .ok b ∧ b.length = n ∧ ∀ j, j < n → b[j]? = s.rxbuf[i + j]?) ∧
    (s.rxbuf.length < i + n → rxRead i n s = .error .rxReadRange) ∧
    rxRead 0 s.rxbuf.length s = .ok (rxAll s) ∧
    (n ≤ s.rxbuf.length → ∃ t, rxDrop n s = .ok t ∧ t = { s with rxbuf := t.rxbuf } ∧
      ∀ j, t.rxbuf[j]? = s.rxbuf[n + j]?) ∧
    (s.rxbuf.length < n → rxDrop n s = .error .rxDropRange) ∧
    (∀ bits, rxAppend bits s = { s with rxbuf := s.rxbuf ++ bits }) ∧ rxClear s = { s with rxbuf := [] }

/-- R110: POLL in all its outcomes, by what DECODE finds in the buffer after the append; the removal is always in range
(R116). Frame: nothing but `RXBUF` and the reply changes. -/
def Obligations.PollActsOnTheDecodeOutcome : Prop :=
  ∀ (newBytes : Bytes) (s : State),
    (s.localId = none →
      exec (.poll newBytes) s = .next { s with reply := some ⟨.refused, .poll .notExecuted⟩ }) ∧
    ∀ id, s.localId = some id → ∃ buf, buf = s.rxbuf ++ b2b newBytes ∧
      exec (.poll newBytes) s = .next
        (match parseFrame Config.cap id buf with
        | .noDelimiter => { s with rxbuf := [], reply := some ⟨.noDelimiter, .poll .startSymbolNotFound⟩ }
        | .needMoreData => { s with rxbuf := buf, reply := some ⟨.needMoreData, .poll .empty⟩ }
        | .checksumMismatch c => { s with rxbuf := buf.drop c, reply := some ⟨.checksumMismatch, .poll .empty⟩ }
        | .notAddressedToMe c => { s with rxbuf := buf.drop c, reply := some ⟨.notAddressedToMe, .poll .empty⟩ }
        | .lengthOutOfRange c => { s with rxbuf := buf.drop c, reply := some ⟨.lengthOutOfRange, .poll .empty⟩ }
        | .ok c _ _ payload => { s with rxbuf := buf.drop c, reply := some ⟨.ok, .poll (.payload payload)⟩ })

/-- R23: after every POLL the buffer is empty, the buffer with the new bits, or that less a positive count that is not more
than its length (a refused POLL, D13, leaves it as it was); no other command but OPEN and CLOSE changes it. A frame off the
link is a POLL (log 1). -/
def Obligations.BufferInvariantAfterEveryCommand : Prop :=
  (∀ (newBytes : Bytes) (s : State), ∃ t o p, exec (.poll newBytes) s = .next t ∧ t.reply = some ⟨o, .poll p⟩ ∧
    (o = .noDelimiter → t.rxbuf = []) ∧
    (o = .needMoreData → t.rxbuf = s.rxbuf ++ b2b newBytes) ∧
    (o = .refused → t.rxbuf = s.rxbuf ∧ s.localId = none) ∧
    (o ≠ .noDelimiter → o ≠ .needMoreData → o ≠ .refused → ∃ consumed, 0 < consumed ∧
      consumed ≤ s.rxbuf.length + 8 * newBytes.length ∧ t.rxbuf = (s.rxbuf ++ b2b newBytes).drop consumed)) ∧
  ∀ (i : Instr) (s t : State), exec i s = .next t → t.rxbuf ≠ s.rxbuf →
    (∃ b, i = .poll b) ∨ i = .openChan ∨ i = .closeChan ∨ ∃ d sr l p c, i = .frame d sr l p c

/-- 42_framecodec.md (R95) and 43_receive.md (R116): a consumed count is at least `8 + N` and never more than the bits there
are, for every `CAP` (R4). -/
def Obligations.ConsumedCountIsInRange : Prop :=
  ∀ (cap : Nat) (id : Byte) (raw : Bits) (c : Nat), consumedOf (parseFrame cap id raw) = some c →
    8 + 8 * (cap + 4) ≤ c ∧ c ≤ raw.length

/-- R114: NeedMoreData changes nothing but the append, and lasts: a POLL with no bytes then leaves everything as it is. -/
def Obligations.NeedMoreDataChangesNothingButTheAppend : Prop :=
  ∀ (newBytes : Bytes) (s t : State) (p : PollResult), exec (.poll newBytes) s = .next t →
    t.reply = some ⟨.needMoreData, .poll p⟩ →
    t = { s with rxbuf := s.rxbuf ++ b2b newBytes, reply := some ⟨.needMoreData, .poll .empty⟩ } ∧
    exec (.poll []) t = .next t

/-- 43_receive.md, the laws of POLL (from R117, which the spec marks as derived): bytes handed over in two pieces, the first
of which needs more data, act exactly as the same bytes in one piece. -/
def Obligations.SplitPollEqualsOnePoll : Prop :=
  ∀ (a b : Bytes) (s t : State) (p : PollResult), exec (.poll a) s = .next t →
    t.reply = some ⟨.needMoreData, .poll p⟩ → exec (.poll b) t = exec (.poll (a ++ b)) s

/-- R113, and R119 (which the spec marks as derived): NoDelimiter wipes the buffer and the session goes on; the next whole
wire image is received, whatever came before. -/
def Obligations.RecoveryAfterAWipe : Prop :=
  ∀ (garbage : Bytes) (s : State) (id : Byte), s.localId = some id → dscan (s.rxbuf ++ b2b garbage) = none →
    ∃ t, exec (.poll garbage) s = .next t ∧ t = { s with rxbuf := [], reply := t.reply } ∧
      t.reply = some ⟨.noDelimiter, .poll .startSymbolNotFound⟩ ∧
      (∃ u, exec .openChan s = .next u ∧ t = { u with reply := t.reply }) ∧
      ∀ src payload w, serializeFrame Config.cap id src payload = some w →
        ∃ v, exec (.poll w) t = .next v ∧ v.reply = some ⟨.ok, .poll (.payload payload)⟩

/-- R112: a POLL resolves at most one window; what stands behind the first frame stays in the buffer, whether the frame is
delivered or dropped. -/
def Obligations.OneFramePerPoll : Prop :=
  ∀ (dst src id : Byte) (payload w more : Bytes) (s : State), s.localId = some id → s.rxbuf = [] →
    serializeFrame Config.cap dst src payload = some w →
    ∃ t c, exec (.poll (w ++ more)) s = .next t ∧ c ≤ 8 * w.length ∧ t.rxbuf = (b2b w).drop c ++ b2b more ∧
      (8 * w.length ≤ c + 8) ∧
      t.reply = some (if dst = id then ⟨.ok, .poll (.payload payload)⟩ else ⟨.notAddressedToMe, .poll .empty⟩)

/-- 43_receive.md, the laws of POLL (R118, which the spec marks as derived): wire images for this engine, their bytes cut
into chunks of any sizes, are received in order, one payload each, once the buffer is drained, provided no frame but the
last both ends in a stuff bit and has exactly one pad bit. -/
def Obligations.WireImagesAreReceivedInAnyChunks : Prop :=
  ∀ (id : Byte) (frames : List (Byte × Bytes)) (wires chunks : List Bytes) (s : State),
    s.localId = some id → s.rxbuf = [] →
    frames.map (fun f => serializeFrame Config.cap id f.1 f.2) = wires.map some →
    chunks.flatten = wires.flatten →
    (∀ f ∈ frames.dropLast, ¬ (endsInMatch (b2b (protectedBytes Config.cap id f.1 f.2)) = true ∧
      stuffCount (b2b (protectedBytes Config.cap id f.1 f.2)) % 8 = 7)) →
    (pollAll chunks s).1 ++ (drain (pollAll chunks s).2).1 = frames.map (·.2)

/-- 70_reset_and_hazards.md section 3 (R170, which the spec marks as derived): a frame that ends in a stuff bit and has one
pad bit is delivered and leaves `1 0`, in front of which the next frame's `0x55` makes a false delimiter at index 0. -/
def Obligations.TrailingStuffBitHidesTheNextDelimiter : Prop :=
  ∀ (id src : Byte) (payload w : Bytes) (s : State), s.localId = some id → s.rxbuf = [] →
    serializeFrame Config.cap id src payload = some w → endsInMatch (b2b (protectedBytes Config.cap id src payload)) = true →
    stuffCount (b2b (protectedBytes Config.cap id src payload)) % 8 = 7 →
    ∃ t, exec (.poll w) s = .next t ∧ t.reply = some ⟨.ok, .poll (.payload payload)⟩ ∧ t.rxbuf = [true, false] ∧
      ∀ rest, dscan (t.rxbuf ++ b2b (Config.delimByte :: rest)) = some 0

/-- 30_encoding.md section 6 (R68) and 70_reset_and_hazards.md section 3 (R173). The two differ on where the loop ends, and
which of them is called DRAIN, and the bound on its POLLs, are this model's (log 15). R68's loop ends with a POLL that
delivered no payload. R173's ends with NeedMoreData or StartSymbolNotFound (or Refused, with `LOCAL_ID` unwritten), delivers
first what R68's delivers, and leaves nothing that one more POLL would report. Each changes nothing but the buffer and the
reply. -/
def Obligations.DrainEndsWithoutAPayload : Prop :=
  ∀ s : State,
    (delivered (drain s).2 = [] ∧
      (drain s).2 = { s with rxbuf := (drain s).2.rxbuf, reply := (drain s).2.reply }) ∧
    ∃ t r o p, drainToEnd s = (r, t) ∧ t = { s with rxbuf := t.rxbuf, reply := some ⟨o, .poll p⟩ } ∧
      (o = .needMoreData ∨ o = .noDelimiter ∨ (o = .refused ∧ s.localId = none)) ∧
      (drain s).1 <+: r ∧ exec (.poll []) t = .next t

/-- 20_memory.md section 7 (R46; the bound is D14 and U5, log 7): a buffer of `max` bits refuses the whole POLL whose append
would overflow and otherwise acts as the unbounded one, which is this block's; for every `CAP` (R4). -/
def Obligations.BoundedBufferRefusesTheWholePoll : Prop :=
  ∀ (cap max : Nat) (newBytes : Bytes) (s : State),
    (max < s.rxbuf.length + 8 * newBytes.length →
      pollWith cap (some max) newBytes s = .next { s with reply := some ⟨.refused, .poll .notExecuted⟩ }) ∧
    (s.rxbuf.length + 8 * newBytes.length ≤ max →
      pollWith cap (some max) newBytes s = pollWith cap none newBytes s) ∧
    pollWith 15 none newBytes s = exec (.poll newBytes) s

/-- A frame off the link (30_encoding.md section 1, R50 and R57; that a frame acts as a POLL of its wire image is this
model's choice, log 1). In every state it is the POLL of the bytes of its encoded form; with `LOCAL_ID` unwritten it is
refused and appends nothing. From an empty buffer the outcome is decided by the fields themselves: checksum, then address,
then length (42_framecodec.md R96), and at most eight bits stay in the buffer. -/
def Obligations.FrameOffTheLinkIsJudgedByItsFields : Prop :=
  ∀ (dst src len : Byte) (payload : Bytes) (checksum : Byte) (s : State),
    (∃ w, w = bits2b (Config.delim ++ stuff (b2b ([dst, src, len] ++ payload ++ [checksum]))) ∧
      exec (.frame dst src len payload checksum) s = exec (.poll w) s) ∧
    (s.localId = none → exec (.frame dst src len payload checksum) s =
      .next { s with reply := some ⟨.refused, .poll .notExecuted⟩ }) ∧
    ∀ id, payload.length = 15 → s.localId = some id → s.rxbuf = [] →
    ∃ left, left.length ≤ 8 ∧ dscan left = none ∧
      exec (.frame dst src len payload checksum) s = .next { s with
        rxbuf := left
        reply := some (if xorsum (dst :: src :: len :: (payload ++ [checksum])) ≠ 0 then ⟨.checksumMismatch, .poll .empty⟩
          else if dst ≠ id then ⟨.notAddressedToMe, .poll .empty⟩
          else if 15 < len.toNat then ⟨.lengthOutOfRange, .poll .empty⟩
          else ⟨.ok, .poll (.payload (payload.take len.toNat))⟩) }

/-! ## The capacity as a parameter -/

/-- 00_scope.md section 4 (R4: `CAP` is a parameter, 0 to 255, and 15 here) and 42_framecodec.md, the laws of ENCODE and
DECODE (R97 a and R99, which the spec marks as derived): at every capacity DECODE of what ENCODE gives is the frame, and
what SEND writes is received; and this block's commands are those of capacity 15 with the buffer unbounded. -/
def Obligations.EveryCapacityHasTheRoundTrip : Prop :=
  (∀ (cap : Nat) (dst src : Byte) (payload : Bytes) (a b : State), cap ≤ 255 → payload.length ≤ cap →
    a.localId = some src → a.peerId = some dst → b.localId = some dst →
    (∃ e c, encodeWith cap dst src payload b = .next { b with reply := some ⟨.ok, .bits e⟩ } ∧
      decodeWith cap e b = .next { b with reply := some ⟨.ok, .decoded c dst src payload⟩ }) ∧
    ∃ w, serializeWith cap dst src payload b = .next { b with reply := some ⟨.ok, .bytes w⟩ } ∧
      sendWith cap payload a = .next { a with chan := a.chan ++ [w], reply := some ⟨.ok, .none⟩ } ∧
      (b.rxbuf = [] → ∃ t, pollWith cap none w b = .next t ∧ t.reply = some ⟨.ok, .poll (.payload payload)⟩)) ∧
  ∀ (dst src : Byte) (bytes : Bytes) (bits : Bits) (s : State),
    exec (.encode dst src bytes) s = encodeWith 15 dst src bytes s ∧ exec (.decode bits) s = decodeWith 15 bits s ∧
    exec (.serialize dst src bytes) s = serializeWith 15 dst src bytes s ∧ exec (.send bytes) s = sendWith 15 bytes s ∧
    exec (.poll bytes) s = pollWith 15 none bytes s
end

