-- ==== Sys2Proof/Laws/Codec.lean ====
section
/-! SUPPORT. The small lemmas of the pure units: bytes and bits, the match counter, the checksum, the body of a frame. -/

namespace Sys2Proof.Machine

@[simp] theorem byteBits_length (b : Byte) : (byteBits b).length = 8 := rfl

@[simp] theorem b2b_nil : b2b [] = [] := rfl

@[simp] theorem b2b_cons (b : Byte) (rest : Bytes) : b2b (b :: rest) = byteBits b ++ b2b rest := rfl

theorem b2b_append (a b : Bytes) : b2b (a ++ b) = b2b a ++ b2b b := by
  induction a with
  | nil => rfl
  | cons x rest ih => simp [ih]

theorem b2b_length (a : Bytes) : (b2b a).length = 8 * a.length := by
  induction a with
  | nil => rfl
  | cons x rest ih => simp [ih]; omega

@[simp] theorem bits2b_nil : bits2b [] = [] := rfl

@[simp] theorem bits2b_eight (b0 b1 b2 b3 b4 b5 b6 b7 : Bit) (rest : Bits) :
    bits2b (b0 :: b1 :: b2 :: b3 :: b4 :: b5 :: b6 :: b7 :: rest) =
      bitsByte [b0, b1, b2, b3, b4, b5, b6, b7] :: bits2b rest := rfl

@[simp] theorem stuff_nil : stuff [] = [] := rfl

@[simp] theorem unstuff_nil : unstuff [] = [] := rfl

/-- The counter never passes the seven bits of `SPAT`. -/
theorem matchStep_le_seven (k : Nat) (b : Bit) (h : k < 7) : matchStep k b ≤ 7 := by
  unfold matchStep
  split
  · split <;> omega
  · split <;> split <;> omega

@[simp] theorem xorsum_nil : xorsum [] = 0 := rfl

@[simp] theorem xorsum_cons (b : Byte) (rest : Bytes) : xorsum (b :: rest) = b ^^^ xorsum rest := rfl

theorem xorsum_append (a b : Bytes) : xorsum (a ++ b) = xorsum a ^^^ xorsum b := by
  induction a with
  | nil => simp
  | cons x rest ih => simp [ih, BitVec.xor_assoc]

@[simp] theorem dscan_nil : dscan [] = none := rfl

theorem frameBody_length (cap : Nat) (dst src : Byte) (payload : Bytes) (h : payload.length ≤ cap) :
    (frameBody cap dst src payload).length = Config.bodyBytes cap := by
  simp [frameBody, Config.bodyBytes]
  omega

theorem protectedBytes_length (cap : Nat) (dst src : Byte) (payload : Bytes) (h : payload.length ≤ cap) :
    (protectedBytes cap dst src payload).length = Config.frameBytes cap := by
  simp [protectedBytes, frameBody_length _ _ _ _ h, Config.bodyBytes, Config.frameBytes]

/-- ENCODE succeeds exactly on payloads of at most `CAP` bytes. -/
theorem encodeFrame_eq_some {cap : Nat} {dst src : Byte} {payload : Bytes} {e : Bits} :
    encodeFrame cap dst src payload = some e ↔
      payload.length ≤ cap ∧ e = encodedFrame (protectedBytes cap dst src payload) := by
  unfold encodeFrame
  split
  · rename_i h
    simp only [reduceCtorEq, false_iff, not_and]
    omega
  · rename_i h
    rw [Option.some.injEq, eq_comm]
    exact ⟨fun he => ⟨by omega, he⟩, And.right⟩

theorem encodeFrame_eq_none {cap : Nat} {dst src : Byte} {payload : Bytes} :
    encodeFrame cap dst src payload = none ↔ cap < payload.length := by
  unfold encodeFrame
  split <;> simp_all

/-- SERIALIZE is BITS2B of what ENCODE gives. -/
theorem serializeFrame_eq_some {cap : Nat} {dst src : Byte} {payload w : Bytes} :
    serializeFrame cap dst src payload = some w ↔ ∃ e, encodeFrame cap dst src payload = some e ∧ w = bits2b e := by
  simp [serializeFrame, eq_comm]

/-- The three tests of DECODE say what they were given, and a delivered payload is at most `CAP` bytes. -/
theorem judgeFrame_cases (cap : Nat) (id : Byte) (c : Nat) (bytes : Bytes) :
    judgeFrame cap id c bytes = .checksumMismatch c ∨ judgeFrame cap id c bytes = .notAddressedToMe c ∨
    judgeFrame cap id c bytes = .lengthOutOfRange c ∨
    ∃ src p, judgeFrame cap id c bytes = .ok c id src p ∧ p.length ≤ cap := by
  unfold judgeFrame
  split
  · exact .inl rfl
  · split
    · exact .inr (.inl rfl)
    · split
      · exact .inr (.inr (.inl rfl))
      · rename_i _ ha hl
        refine .inr (.inr (.inr ⟨_, _, by rw [not_not.mp ha], ?_⟩))
        simp only [List.length_take]
        omega

end Sys2Proof.Machine
end

