-- ==== Sys2Proof/Laws/State.lean ====
section
/-! SUPPORT. One lemma per field for each named operation on the state, so that no proof unfolds a record update. -/

namespace Sys2Proof.Machine

variable (s : State) (bits : Bits) (bytes : Bytes) (o : Status) (r : Results) (x : Input)

@[simp] theorem rxAll_eq : rxAll s = s.rxbuf := rfl

@[simp] theorem rxAppend_localId : (rxAppend bits s).localId = s.localId := rfl
@[simp] theorem rxAppend_peerId : (rxAppend bits s).peerId = s.peerId := rfl
@[simp] theorem rxAppend_rxbuf : (rxAppend bits s).rxbuf = s.rxbuf ++ bits := rfl
@[simp] theorem rxAppend_input : (rxAppend bits s).input = s.input := rfl
@[simp] theorem rxAppend_reply : (rxAppend bits s).reply = s.reply := rfl
@[simp] theorem rxAppend_chan : (rxAppend bits s).chan = s.chan := rfl

@[simp] theorem rxClear_localId : (rxClear s).localId = s.localId := rfl
@[simp] theorem rxClear_peerId : (rxClear s).peerId = s.peerId := rfl
@[simp] theorem rxClear_rxbuf : (rxClear s).rxbuf = [] := rfl
@[simp] theorem rxClear_input : (rxClear s).input = s.input := rfl
@[simp] theorem rxClear_reply : (rxClear s).reply = s.reply := rfl
@[simp] theorem rxClear_chan : (rxClear s).chan = s.chan := rfl

@[simp] theorem chanWrite_localId : (chanWrite bytes s).localId = s.localId := rfl
@[simp] theorem chanWrite_peerId : (chanWrite bytes s).peerId = s.peerId := rfl
@[simp] theorem chanWrite_rxbuf : (chanWrite bytes s).rxbuf = s.rxbuf := rfl
@[simp] theorem chanWrite_input : (chanWrite bytes s).input = s.input := rfl
@[simp] theorem chanWrite_reply : (chanWrite bytes s).reply = s.reply := rfl
@[simp] theorem chanWrite_chan : (chanWrite bytes s).chan = s.chan ++ [bytes] := rfl

@[simp] theorem answer_localId : (answer o r s).localId = s.localId := rfl
@[simp] theorem answer_peerId : (answer o r s).peerId = s.peerId := rfl
@[simp] theorem answer_rxbuf : (answer o r s).rxbuf = s.rxbuf := rfl
@[simp] theorem answer_input : (answer o r s).input = s.input := rfl
@[simp] theorem answer_reply : (answer o r s).reply = some ⟨o, r⟩ := rfl
@[simp] theorem answer_chan : (answer o r s).chan = s.chan := rfl

@[simp] theorem badCommand_localId : (badCommand s).localId = s.localId := rfl
@[simp] theorem badCommand_peerId : (badCommand s).peerId = s.peerId := rfl
@[simp] theorem badCommand_rxbuf : (badCommand s).rxbuf = s.rxbuf := rfl
@[simp] theorem badCommand_input : (badCommand s).input = s.input := rfl
@[simp] theorem badCommand_reply : (badCommand s).reply = some ⟨.badCommand, .none⟩ := rfl
@[simp] theorem badCommand_chan : (badCommand s).chan = s.chan := rfl

@[simp] theorem putInput_localId : (putInput x s).localId = s.localId := rfl
@[simp] theorem putInput_peerId : (putInput x s).peerId = s.peerId := rfl
@[simp] theorem putInput_rxbuf : (putInput x s).rxbuf = s.rxbuf := rfl
@[simp] theorem putInput_input : (putInput x s).input = x :: s.input := rfl
@[simp] theorem putInput_reply : (putInput x s).reply = s.reply := rfl
@[simp] theorem putInput_chan : (putInput x s).chan = s.chan := rfl

end Sys2Proof.Machine
end

