-- ==== Sys2Proof/Laws/Ops.lean ====
section
/-! SUPPORT. For each shared operation, one lemma that says once what it can do; and what one step can do. -/

namespace Sys2Proof.Machine

/-- A read is in range or it is the fault. -/
theorem rxRead_cases (i n : Nat) (s : State) :
    (i + n ≤ s.rxbuf.length ∧ rxRead i n s = .ok ((s.rxbuf.drop i).take n)) ∨
    (s.rxbuf.length < i + n ∧ rxRead i n s = .error .rxReadRange) := by
  unfold rxRead
  split
  · exact .inl ⟨‹_›, rfl⟩
  · exact .inr ⟨by omega, rfl⟩

/-- A removal is in range or it is the fault. -/
theorem rxDrop_cases (n : Nat) (s : State) :
    (n ≤ s.rxbuf.length ∧ rxDrop n s = .ok { s with rxbuf := s.rxbuf.drop n }) ∨
    (s.rxbuf.length < n ∧ rxDrop n s = .error .rxDropRange) := by
  unfold rxDrop
  split
  · exact .inl ⟨‹_›, rfl⟩
  · exact .inr ⟨by omega, rfl⟩

@[simp] theorem rxFits_none (n : Nat) (s : State) : rxFits none n s = true := rfl

@[simp] theorem rxFits_some (m n : Nat) (s : State) :
    rxFits (some m) n s = decide (s.rxbuf.length + n ≤ m) := rfl

/-- A removal in range gives the next state. -/
theorem dropAndAnswer_of_le {n : Nat} {o : Status} {p : PollResult} {s : State} (h : n ≤ s.rxbuf.length) :
    dropAndAnswer n o p s = .next { s with rxbuf := s.rxbuf.drop n, reply := some ⟨o, .poll p⟩ } := by
  unfold dropAndAnswer
  rcases rxDrop_cases n s with ⟨_, hd⟩ | ⟨hl, _⟩
  · rw [hd]; rfl
  · omega

/-- Whatever a removal answers with, it was in range and changed only the buffer and the reply. -/
theorem dropAndAnswer_next {n : Nat} {o : Status} {p : PollResult} {s t : State}
    (h : dropAndAnswer n o p s = .next t) :
    n ≤ s.rxbuf.length ∧ t = { s with rxbuf := s.rxbuf.drop n, reply := some ⟨o, .poll p⟩ } := by
  rcases rxDrop_cases n s with ⟨hl, hd⟩ | ⟨_, hd⟩
  · rw [dropAndAnswer_of_le hl] at h
    exact ⟨hl, by injection h with h; exact h.symm⟩
  · unfold dropAndAnswer at h
    rw [hd] at h
    cases h

/-- What POLL does with the buffer changes only the buffer and the reply. -/
theorem applyParsed_next {o : Parsed} {s t : State} (h : applyParsed o s = .next t) :
    t = { s with rxbuf := t.rxbuf, reply := t.reply } := by
  cases o with
  | noDelimiter => cases h; rfl
  | needMoreData => cases h; rfl
  | checksumMismatch c => rw [(dropAndAnswer_next h).2]
  | notAddressedToMe c => rw [(dropAndAnswer_next h).2]
  | lengthOutOfRange c => rw [(dropAndAnswer_next h).2]
  | ok c d sr p => rw [(dropAndAnswer_next h).2]

/-- POLL with `LOCAL_ID` written, in an unbounded buffer, for every `CAP`. -/
theorem pollWith_of_some {cap : Nat} {s : State} {id : Byte} (h : s.localId = some id) (b : Bytes) :
    pollWith cap none b s = applyParsed (parseFrame cap id (s.rxbuf ++ b2b b)) (rxAppend (b2b b) s) := by
  simp [pollWith, h]

/-- POLL with `LOCAL_ID` written, in this block. -/
theorem execPoll_of_some {s : State} {id : Byte} (h : s.localId = some id) (b : Bytes) :
    execPoll b s = applyParsed (parseFrame Config.cap id (s.rxbuf ++ b2b b)) (rxAppend (b2b b) s) :=
  pollWith_of_some h b

/-- Whatever a POLL answers with, for every `CAP` and every bound, it changed only the buffer and the reply. -/
theorem pollWith_next {cap : Nat} {max : Option Nat} {b : Bytes} {s t : State} (h : pollWith cap max b s = .next t) :
    t = { s with rxbuf := t.rxbuf, reply := t.reply } := by
  unfold pollWith at h
  split at h
  · cases h; rfl
  · split at h
    · rw [applyParsed_next h]; rfl
    · cases h; rfl

/-- SEND, for every `CAP`: refused, too large, or one write of the wire image to the peer. -/
theorem sendWith_cases (cap : Nat) (payload : Bytes) (s : State) :
    ((s.localId = none ∨ s.peerId = none) ∧ sendWith cap payload s = .next (answer .refused .none s)) ∨
    ∃ l p, s.localId = some l ∧ s.peerId = some p ∧
      ((cap < payload.length ∧ sendWith cap payload s = .next (answer .payloadTooLarge .none s)) ∨
       ∃ w, serializeFrame cap p l payload = some w ∧
         sendWith cap payload s = .next (answer .ok .none (chanWrite w s))) := by
  unfold sendWith
  cases hl : s.localId with
  | none => exact .inl ⟨.inl rfl, rfl⟩
  | some l =>
    cases hp : s.peerId with
    | none => exact .inl ⟨.inr rfl, rfl⟩
    | some p =>
      refine .inr ⟨l, p, rfl, rfl, ?_⟩
      cases hw : serializeFrame cap p l payload with
      | none => exact .inl ⟨encodeFrame_eq_none.mp (Option.map_eq_none_iff.mp hw), by simp only [hw]⟩
      | some w => exact .inr ⟨w, rfl, by simp only [hw]⟩

/-- A frame off the link is the POLL of its wire image (log 1). -/
theorem execFrame_eq_execPoll (dst src len : Byte) (payload : Bytes) (checksum : Byte) (s : State) :
    execFrame dst src len payload checksum s =
      execPoll (bits2b (encodedFrame (dst :: src :: len :: (payload ++ [checksum])))) s := rfl

theorem takeInput_nil {s : State} (h : s.input = []) : takeInput s = none := by
  simp [takeInput, h]

theorem takeInput_cons {s : State} {x : Input} {rest : List Input} (h : s.input = x :: rest) :
    takeInput s = some (x, { s with input := rest }) := by
  simp [takeInput, h]

/-- What one step can do: stand idle, answer a reserved code, or run the oldest command. -/
theorem step_cases {s t : State} (h : step s = .next t) :
    (s.input = [] ∧ t = s) ∨
    ∃ x rest, s.input = x :: rest ∧
      ((∃ e, decode x = .error e ∧ t = badCommand { s with input := rest }) ∨
       ∃ i, decode x = .ok i ∧ exec i { s with input := rest } = .next t) := by
  unfold step at h
  cases hs : s.input with
  | nil =>
    rw [takeInput_nil hs] at h
    injection h with h
    exact .inl ⟨rfl, h.symm⟩
  | cons x rest =>
    rw [takeInput_cons hs] at h
    refine .inr ⟨x, rest, rfl, ?_⟩
    cases hd : decode x with
    | error e =>
      simp only [hd] at h
      injection h with h
      exact .inl ⟨e, rfl, h.symm⟩
    | ok i =>
      simp only [hd] at h
      exact .inr ⟨i, rfl, h⟩

end Sys2Proof.Machine
end

