-- ==== Sys2Proof/Laws/PerInstr.lean ====
section
/-! SUPPORT. A statement made per instruction: no well-formed instruction's own encoding is a reserved code
(spec/30_encoding.md rules R60 and R64). -/

namespace Sys2Proof.Laws

/-- The decoder accepts the instruction's encoding. -/
def Accepted.Statement (i : Instr) : Prop := i.wf = true → ∀ e, Sys2Proof.decode (Sys2Proof.encode i) ≠ .error e

theorem Accepted.setlocal (id : Byte) : Accepted.Statement (.setlocal id) := fun _ _ h => nomatch h
theorem Accepted.setpeer (id : Byte) : Accepted.Statement (.setpeer id) := fun _ _ h => nomatch h
theorem Accepted.openChan : Accepted.Statement .openChan := fun _ _ h => nomatch h
theorem Accepted.closeChan : Accepted.Statement .closeChan := fun _ _ h => nomatch h
theorem Accepted.send (payload : Bytes) : Accepted.Statement (.send payload) := fun _ _ h => nomatch h
theorem Accepted.poll (newBytes : Bytes) : Accepted.Statement (.poll newBytes) := fun _ _ h => nomatch h
theorem Accepted.b2b (bytes : Bytes) : Accepted.Statement (.b2b bytes) := fun _ _ h => nomatch h
theorem Accepted.bits2b (bits : Bits) : Accepted.Statement (.bits2b bits) := fun _ _ h => nomatch h
theorem Accepted.stuff (bits : Bits) : Accepted.Statement (.stuff bits) := fun _ _ h => nomatch h
theorem Accepted.unstuff (bits : Bits) : Accepted.Statement (.unstuff bits) := fun _ _ h => nomatch h
theorem Accepted.xorsum (bytes : Bytes) : Accepted.Statement (.xorsum bytes) := fun _ _ h => nomatch h
theorem Accepted.dscan (bits : Bits) : Accepted.Statement (.dscan bits) := fun _ _ h => nomatch h
theorem Accepted.encode (dst src : Byte) (payload : Bytes) : Accepted.Statement (.encode dst src payload) :=
  fun _ _ h => nomatch h
theorem Accepted.decode (bits : Bits) : Accepted.Statement (.decode bits) := fun _ _ h => nomatch h
theorem Accepted.serialize (dst src : Byte) (payload : Bytes) : Accepted.Statement (.serialize dst src payload) :=
  fun _ _ h => nomatch h
theorem Accepted.frame (dst src len : Byte) (payload : Bytes) (checksum : Byte) :
    Accepted.Statement (.frame dst src len payload checksum) := fun _ _ h => nomatch h

end Sys2Proof.Laws
end

