-- ==== Sys2Proof/Tests/Slice0.lean ====
section
/-! SUPPORT. Tests. Every expected value is a vector of spec/95_test_vectors.md (named in the comment) or is written out by
hand from a rule; then, for each statement of Certificates/Slice0/Obligations.lean that has hypotheses, a concrete state and
operands that meet them. -/

/- One theorem at a time: many kernel evaluations side by side reserve more memory than the check allows. -/
set_option Elab.async false

namespace Sys2Proof.Tests

open Sys2Proof.Machine

/-- The state a meaning ends in, if it ends in one. -/
def after (o : Host.Outcome State Fault Refusal) : Option State :=
  match o with
  | .next s => some s
  | .fault _ => none
  | .refused _ => none

/-- A state with the identifiers and the buffer given, everything else as after reset. -/
def st (l p : Option Byte) (buf : Bits) : State := { State.reset with localId := l, peerId := p, rxbuf := buf }

/-- `10101010 10000000`, the buffer of V71. -/
def pending : Bits := Config.delim ++ [true, false, false, false, false, false, false, false]

/-- The "Hi" frame's wire image (V40). -/
def hiWire : Bytes := [0x55, 0x01, 0x01, 0x02, 0x48, 0x69, 0, 0, 0, 0, 0, 0, 0, 0, 0, 0, 0, 0, 0, 0x23]

/-- The wire image of V46a, a frame for `09`. -/
def foreignWire : Bytes := [0x55, 0x09, 0x01, 0x01, 0x41, 0, 0, 0, 0, 0, 0, 0, 0, 0, 0, 0, 0, 0, 0, 0x48]

/-- The wire image of V44, which ends in a stuff bit and one pad bit. -/
def hazardWire : Bytes :=
  [0x55, 0xAA, 0x55, 0x17, 0x54, 0xAB, 0x06, 0x5D, 0x7D, 0x35, 0, 0, 0, 0, 0, 0, 0, 0, 0, 0xC0, 0x6A]

/-! ## Constants (00_scope.md R4 to R6) -/

theorem test_constants : Config.bodyBytes 15 = 18 ∧ Config.frameBytes 15 = 19 ∧ Config.frameBits 15 = 152 ∧
    Config.maxStuffBits 15 = 21 ∧ Config.srep = Config.spat ++ [true] ∧ Config.spat = Config.delim.take 7 ∧
    b2b [Config.delimByte] = Config.delim := by decide

/-! ## Well-formedness (the one check: a frame has CAP payload bytes) -/

theorem test_wf_refuses_short_frame : (Instr.frame 1 1 2 [0x48, 0x69] 0x23).wf = false := by decide

theorem test_wf_refuses_long_frame : (Instr.frame 1 1 16 (List.replicate 16 0) 0).wf = false := by decide

theorem test_wf_accepts_full_frame : (Instr.frame 1 1 2 (0x48 :: 0x69 :: List.replicate 13 0) 0x23).wf = true := by decide

/-! ## Decoding: each code of 30_encoding.md R60 written out bit by bit, with its operand ports -/

theorem test_decode_setlocal : decode (.command { cmd := 0b00000001, id := 0x2A }) = .ok (.setlocal 0x2A) := by decide
theorem test_decode_setpeer : decode (.command { cmd := 0b00000010, id := 0x2A }) = .ok (.setpeer 0x2A) := by decide
theorem test_decode_open : decode (.command { cmd := 0b00000011 }) = .ok .openChan := by decide
theorem test_decode_close : decode (.command { cmd := 0b00000100 }) = .ok .closeChan := by decide
theorem test_decode_send : decode (.command { cmd := 0b00000101, bytes := [0x48] }) = .ok (.send [0x48]) := by decide
theorem test_decode_poll : decode (.command { cmd := 0b00000110, bytes := [0x55] }) = .ok (.poll [0x55]) := by decide
theorem test_decode_b2b : decode (.command { cmd := 0b00010000, bytes := [1] }) = .ok (.b2b [1]) := by decide
theorem test_decode_bits2b : decode (.command { cmd := 0b00010001, bits := [true] }) = .ok (.bits2b [true]) := by decide
theorem test_decode_stuff : decode (.command { cmd := 0b00010010, bits := [true] }) = .ok (.stuff [true]) := by decide
theorem test_decode_unstuff : decode (.command { cmd := 0b00010011, bits := [true] }) = .ok (.unstuff [true]) := by decide
theorem test_decode_xorsum : decode (.command { cmd := 0b00010100, bytes := [1] }) = .ok (.xorsum [1]) := by decide
theorem test_decode_dscan : decode (.command { cmd := 0b00010101, bits := [true] }) = .ok (.dscan [true]) := by decide
theorem test_decode_encode : decode (.command { cmd := 0b00010110, dst := 1, src := 2, bytes := [3] }) =
    .ok (.encode 1 2 [3]) := by decide
theorem test_decode_decode : decode (.command { cmd := 0b00010111, bits := [true] }) = .ok (.decode [true]) := by decide
theorem test_decode_serialize : decode (.command { cmd := 0b00011000, dst := 1, src := 2, bytes := [3] }) =
    .ok (.serialize 1 2 [3]) := by decide

/-- V40's frame: the protected bytes 01 01 02 48 69 00x13 23, byte 0 in the low bits (R50). -/
theorem test_decode_frame : decode (.frame 0x23000000000000000000000000006948020101) =
    .ok (.frame 1 1 2 (0x48 :: 0x69 :: List.replicate 13 0) 0x23) := by decide

/-- V79: reserved codes are no command, by name. -/
theorem test_decode_reserved : [0x00, 0x07, 0x0F, 0x19, 0xFF].map (fun c => decode (.command { cmd := c })) =
    [0x00, 0x07, 0x0F, 0x19, 0xFF].map (fun c => Except.error (DecodeError.reservedCode c)) := by decide

theorem test_word_frame_needs_delimiter : decodeTableWord 160 0xAA = none := by decide

theorem test_fetch_word_runs : step (State.reset.withFetchWord 8 0x05) = exec (.send []) State.reset := by rfl

theorem test_fetch_frame_runs : step (State.reset.withFetchWord 160 0x55) =
    exec (.frame 0 0 0 (List.replicate 15 0) 0) State.reset := by rfl

/-! ## Control and SEND -/

/-- V70. -/
theorem test_setlocal_first_write : after (exec (.setlocal 1) State.reset) =
    some { State.reset with localId := some 1, reply := some ⟨.ok, .none⟩ } := by decide

/-- V71. -/
theorem test_setlocal_refused : after (exec (.setlocal 2) (st (some 1) (some 9) pending)) =
    some { st (some 1) (some 9) pending with reply := some ⟨.refused, .none⟩ } := by decide

/-- V72, for the other register: bits without a delimiter do not block the write and are kept. -/
theorem test_setpeer_keeps_bits : after (exec (.setpeer 2) (st (some 1) (some 9) [false, true, true])) =
    some { st (some 1) (some 2) [false, true, true] with reply := some ⟨.ok, .none⟩ } := by decide

/-- V71a. -/
theorem test_setpeer_refused : after (exec (.setpeer 2) (st (some 1) (some 9) pending)) =
    some { st (some 1) (some 9) pending with reply := some ⟨.refused, .none⟩ } := by decide

/-- V73. -/
theorem test_open_clears : after (exec .openChan (st (some 1) (some 9) pending)) =
    some { st (some 1) (some 9) [] with reply := some ⟨.ok, .none⟩ } := by decide

/-- V73a. -/
theorem test_close_clears : after (exec .closeChan (st (some 1) (some 9) pending)) =
    some { st (some 1) (some 9) [] with reply := some ⟨.ok, .none⟩ } := by decide

/-- V76: the Destination is PEER_ID, the Source LOCAL_ID. -/
theorem test_send_writes_frame : (after (exec (.send [0x55, 0x55]) (st (some 2) (some 1) []))).map (·.chan) =
    some [[0x55, 0x01, 0x02, 0x02, 0xD5, 0xAA, 0x01, 0, 0, 0, 0, 0, 0, 0, 0, 0, 0, 0, 0, 0x04, 0x00]] := by
  decide +kernel

/-- V77a: Refused is tested before PayloadTooLarge. -/
theorem test_send_refused_first : (after (exec (.send (List.replicate 16 0)) State.reset)) =
    some { State.reset with reply := some ⟨.refused, .none⟩ } := by decide

/-! ## POLL and frames off the link -/

/-- V60. -/
theorem test_poll_whole_frame : after (exec (.poll hiWire) (st (some 1) none [])) =
    some { st (some 1) none [] with reply := some ⟨.ok, .poll (.payload [0x48, 0x69])⟩ } := by decide +kernel

/-- V66 step 1: a delimiter that straddles two bytes of one POLL; V68: in two POLLs it is wiped. -/
theorem test_poll_straddling_delimiter :
    (after (exec (.poll [0x50, 0x05]) (st (some 1) none []))).map (·.reply) =
      some (some ⟨.needMoreData, .poll .empty⟩) ∧
    pollAll [[0x50], [0x05]] (st (some 1) none []) =
      ([], { st (some 1) none [] with reply := some ⟨.noDelimiter, .poll .startSymbolNotFound⟩ }) := by decide

/-- V62 step 2 and V60 in one buffer: R68's loop ends at the dropped frame, R173's goes on and delivers the next. -/
theorem test_drain_at_a_dropped_frame :
    (drain (st (some 1) none (b2b (foreignWire ++ hiWire)))).1 = [] ∧
    (drainToEnd (st (some 1) none (b2b (foreignWire ++ hiWire)))).1 = [[0x48, 0x69]] := by decide +kernel

/-- V63 step 1, by the frame's fields: the payload is delivered and the buffer keeps the stuff bit and the pad bit. -/
theorem test_frame_leaves_trailing_stuff_bit :
    after (exec (.frame 0xAA 0xAA 5 [0x55, 0x55, 0xD0, 0xD5, 0xAB, 0, 0, 0, 0, 0, 0, 0, 0, 0, 0] 0xAB)
      (st (some 0xAA) none [])) =
    some { st (some 0xAA) none [true, false] with
      reply := some ⟨.ok, .poll (.payload [0x55, 0x55, 0xD0, 0xD5, 0xAB])⟩ } := by decide +kernel

/-- V74b: a refused POLL appends nothing; a frame is a POLL. -/
theorem test_frame_refused_unwritten : after (exec (.frame 0 0 0 (List.replicate 15 0) 0) State.reset) =
    some { State.reset with reply := some ⟨.refused, .poll .notExecuted⟩ } := by decide

/-! ## The pure units -/

/-- V6. -/
theorem test_b2b_hi : (after (exec (.b2b [0x48, 0x69]) State.reset)).map (·.reply) = some (some ⟨.ok, .bits
    [false, false, false, true, false, false, true, false, true, false, false, true, false, true, true, false]⟩) := by
  decide

/-- V3: bit 7 goes last. -/
theorem test_b2b_high_bit_last : b2b [0x80] = List.replicate 7 false ++ [true] := by decide

/-- V10. -/
theorem test_bits2b_pads : (after (exec (.bits2b (Config.delim ++ [true, false, true])) State.reset)).map (·.reply) =
    some (some ⟨.ok, .bytes [0x55, 0x05]⟩) := by decide

/-- V11a: the eighth bit has weight 128. -/
theorem test_bits2b_eighth_bit : bits2b (List.replicate 7 false ++ [true]) = [0x80] := by decide

/-- V18: 14 alternating bits get one stuff bit, and the output holds a DELIM at 7 (40_bitcodec.md R77 c). -/
theorem test_stuff_no_overlap :
    (after (exec (.stuff (Config.spat ++ [false, true, false, true, false, true, false])) State.reset)).map (·.reply) =
      some (some ⟨.ok, .bits (Config.srep ++ [false, true, false, true, false, true, false])⟩) ∧
    dscan (Config.srep ++ [false, true, false, true, false, true, false]) = some 7 := by decide

/-- V19: matches at 0 and 8. -/
theorem test_stuff_two_matches :
    stuff (Config.delim ++ Config.delim) = Config.srep ++ false :: (Config.srep ++ [false]) := by decide

/-- V28: a match at index 2, found after a failed start at 0. -/
theorem test_unstuff_late_match : (after (exec (.unstuff (true :: false :: Config.srep)) State.reset)).map (·.reply) =
    some (some ⟨.ok, .bits (true :: false :: Config.spat)⟩) := by decide

/-- V26: a trailing SPAT is copied. -/
theorem test_unstuff_trailing_spat : unstuff Config.spat = Config.spat := by decide

/-- V90 and V91a: the streaming forms. -/
theorem test_streams : stuffStream 0 (Config.spat ++ [false, true, false, true, false, true, false]) =
      Config.srep ++ [false, true, false, true, false, true, false] ∧
    unstuffStream 0 (true :: false :: Config.srep) = true :: false :: Config.spat := by decide

/-- V33. -/
theorem test_xorsum_hi : (after (exec (.xorsum (1 :: 1 :: 2 :: 0x48 :: 0x69 :: List.replicate 13 0)) State.reset)).map
    (·.reply) = some (some ⟨.ok, .byte 0x23⟩) := by decide

/-- V35. -/
theorem test_xorsum_columns : xorsum [1, 2, 4, 8, 0x10, 0x20, 0x40, 0x80] = 0xFF := by decide

/-- V84: the first of two overlapping occurrences. -/
theorem test_dscan_leftmost : (after (exec (.dscan (true :: false :: Config.delim)) State.reset)).map (·.reply) =
    some (some ⟨.ok, .index (some 0)⟩) := by decide

/-- V87: SREP is not DELIM. -/
theorem test_dscan_skips_srep : dscan (Config.srep ++ Config.delim) = some 8 := by decide

/-- V45b, as bits: one stuff bit. -/
theorem test_encode_length : ((encodeFrame 15 0xAA 0x01 [0x48, 0x69]).map List.length) = some 161 := by decide +kernel

/-- By hand from R90 and R98 at `CAP = 0`: Destination, Source, Length 0 and their XOR, no stuff bit. -/
theorem test_capacity_zero : serializeFrame 0 1 2 [] = some [0x55, 0x01, 0x02, 0x00, 0x03] ∧
    parseFrame 0 1 (b2b [0x55, 0x01, 0x02, 0x00, 0x03]) = .ok 40 1 2 [] ∧ encodeFrame 0 1 2 [0x48] = none := by
  decide +kernel

/-- V47: the smallest refused length. -/
theorem test_encode_too_large : (after (exec (.encode 1 1 (List.replicate 16 0)) State.reset)).map (·.reply) =
    some (some ⟨.payloadTooLarge, .none⟩) := by decide

/-- V54: the trailing stuff bit is not consumed. -/
theorem test_decode_trailing_stuff_bit : (after (exec (.decode (b2b hazardWire)) (st (some 0xAA) none []))).map
    (·.reply) = some (some ⟨.ok, .decoded 166 0xAA 0xAA [0x55, 0x55, 0xD0, 0xD5, 0xAB]⟩) := by decide +kernel

/-- V58a and V58: the address test comes before the length test. -/
theorem test_judge_order :
    judgeFrame 15 2 160 (1 :: 1 :: 0x10 :: (List.replicate 15 0 ++ [0x10])) = .notAddressedToMe 160 ∧
    judgeFrame 15 1 160 (1 :: 1 :: 0x10 :: (List.replicate 15 0 ++ [0x10])) = .lengthOutOfRange 160 := by decide

/-- V46: seventeen stuff bits, 23 bytes. -/
theorem test_serialize_many_stuff_bits : serializeFrame 15 0x55 0x55 (List.replicate 15 0x55) =
    some [0x55, 0xD5, 0xAA, 0x3D, 0x54, 0xAB, 0x56, 0xAD, 0x5A, 0xB5, 0x6A, 0xD5, 0xAA, 0x55, 0xAB, 0x56, 0xAD, 0x5A,
      0xB5, 0x6A, 0xD5, 0xB4, 0x00] := by decide +kernel

/-- V44. -/
theorem test_serialize_hazard : (after (exec (.serialize 0xAA 0xAA [0x55, 0x55, 0xD0, 0xD5, 0xAB]) State.reset)).map
    (·.reply) = some (some ⟨.ok, .bytes hazardWire⟩) := by decide +kernel

/-! ## Witnesses: a state and operands that meet the hypotheses of each statement that has some -/

theorem hi_serializes : serializeFrame 15 1 1 [0x48, 0x69] = some hiWire := by decide +kernel

theorem hazard_serializes : serializeFrame 15 0xAA 0xAA [0x55, 0x55, 0xD0, 0xD5, 0xAB] = some hazardWire := by decide +kernel

/-- 152 zero bits are a window of their own length. -/
theorem zeros_resolve : resolve 15 (List.replicate 152 false) = some 152 := by decide +kernel

theorem witness_DecodeOfEncodeIsTheInstruction :
    (Instr.frame 0xFF 0xFF 0xFF (List.replicate 15 0xFF) 0xFF).wf = true ∧ (Instr.poll []).wf = true := by decide

theorem witness_DecodedInstructionKeepsTheBits :
    decode (.frame 0) = .ok (.frame 0 0 0 (List.replicate 15 0) 0) ∧ decode (.command { cmd := 0x18 }) =
      .ok (.serialize 0 0 []) := by decide

theorem witness_EveryTableCodeDecodesToItsCommand :
    [0x01, 0x02, 0x03, 0x04, 0x05, 0x06, 0x10, 0x11, 0x12, 0x13, 0x14, 0x15, 0x16, 0x17, 0x18].map
      (fun c => (Request.mk c 0 0 0 [] []).cmd.toNat) = [1, 2, 3, 4, 5, 6, 16, 17, 18, 19, 20, 21, 22, 23, 24] := by decide

/-- A reserved code at each end of each range, and a command at each edge. -/
theorem witness_ReservedCodeAnswersBadCommand :
    [0x00, 0x07, 0x0F, 0x19, 0xFF].map (fun c => (after (step { State.reset with input := [.command { cmd := c }] })).map
      (·.reply)) = List.replicate 5 (some (some ⟨.badCommand, .none⟩)) ∧
    [0x01, 0x06, 0x10, 0x18].map (fun c => (decode (.command { cmd := c })).toOption.isSome) =
      List.replicate 4 true := by decide

theorem witness_StepRunsTheDecodedInstruction :
    (putInput (.command { cmd := 0x03 }) State.reset).input = .command { cmd := 0x03 } :: [] ∧
    decode (.command { cmd := 0x03 }) = .ok .openChan ∧ State.reset.input = [] := by decide

theorem witness_IdentifiersHoldNoValueUntilWritten :
    (after (step { State.reset with input := [.command { cmd := 0x01, id := 7 }] })).map (·.localId) = some (some 7) ∧
    (after (step { State.reset with input := [.command { cmd := 0x02, id := 7 }] })).map (·.peerId) = some (some 7) ∧
    (after (step { st (some 1) (some 2) [] with input := [.command { cmd := 0x04 }] })).map (·.localId) =
      some (some 1) ∧
    (after (exec (.setlocal 7) State.reset)).map (·.reply) = some (some ⟨.ok, .none⟩) ∧
    (after (exec (.setpeer 7) State.reset)).map (·.reply) = some (some ⟨.ok, .none⟩) ∧ State.reset.rxbuf = [] := by decide

theorem witness_UnwrittenIdentifierRefuses :
    State.reset.localId = none ∧ (st (some 1) none []).peerId = none ∧ (st none (some 1) []).localId = none ∧
    readsLocal (.setlocal 1) = false ∧ readsPeer (.setlocal 1) = false := by decide

theorem witness_PollResultIsAFunctionOfTheOutcome :
    ((after (exec (.poll []) State.reset)).map (·.reply) = some (some ⟨.refused, .poll .notExecuted⟩)) ∧
    ((after (exec (.poll []) (st (some 1) none []))).map (·.reply) =
      some (some ⟨.noDelimiter, .poll .startSymbolNotFound⟩)) ∧
    ((after (exec (.poll [0x55]) (st (some 1) none []))).map (·.reply) =
      some (some ⟨.needMoreData, .poll .empty⟩)) := by decide

/-- The fourth class of outcome, a dropped frame (V62 step 2). -/
theorem witness_poll_drop : (after (exec (.poll hiWire) (st (some 2) none []))).map (·.reply) =
    some (some ⟨.notAddressedToMe, .poll .empty⟩) := by decide +kernel

theorem witness_NoOutcomeIsFatal : (st (some 1) none [true]).rxbuf = { st (some 1) none [true] with chan := [[]] }.rxbuf ∧
    (st (some 1) none [true]) ≠ { st (some 1) none [true] with chan := [[]] } := by decide

theorem witness_EveryStepKeepsTheInvariant : (st (some 1) none [true]).Inv ∧
    step (st (some 1) none [true]) = .next (st (some 1) none [true]) := by
  refine ⟨⟨?_, ?_, ?_⟩, rfl⟩
  · intro h; cases h
  · intro w hw; cases hw
  · intro r hr; cases hr

theorem witness_CommandsTouchOnlyWhatTheTableLists :
    after (exec (.xorsum []) State.reset) = some { State.reset with reply := some ⟨.ok, .byte 0⟩ } ∧
    writesLocal (.xorsum []) = false ∧ readsLocal (.xorsum []) = false ∧ readsBuffer (.xorsum []) = false ∧
    readsLocal (.send []) = true ∧ readsPeer (.send []) = true ∧ readsBuffer (.setlocal 0) = true := by decide

/-- Both clauses: a buffer with a delimiter at index 0, and one that lacks its last bit. -/
theorem witness_IdentifierWritesAreRefusedMidAssembly :
    (∃ k, ((st none none Config.delim).rxbuf.drop k).take 8 = Config.delim) ∧
    ∀ k, ((st none none Config.spat).rxbuf.drop k).take 8 ≠ Config.delim := by
  refine ⟨⟨0, by decide⟩, fun k h => ?_⟩
  have hl := congrArg List.length h
  simp [st, Config.spat, Config.delim] at hl
  omega

/-- Unwritten identifiers, and both payload clauses at their boundary. -/
theorem witness_SendWritesOneWireImage :
    (st (some 2) (some 1) []).localId = some 2 ∧ (st (some 2) (some 1) []).peerId = some 1 ∧
    (st (some 2) none []).peerId = none ∧ (List.replicate 15 (0 : Byte)).length ≤ 15 ∧
    15 < (List.replicate 16 (0 : Byte)).length := by decide

theorem witness_IdentifierWriteTakesEffectAtOnce :
    after (exec (.setlocal 5) (st (some 1) none [true])) =
      some { st (some 5) none [true] with reply := some ⟨.ok, .none⟩ } := by decide

theorem witness_SentPayloadIsReceived : ([0x48, 0x69] : Bytes).length ≤ 15 ∧ (st (some 1) (some 1) []).peerId = some 1 ∧
    (st (some 1) (some 1) []).localId = some 1 ∧ (st (some 1) (some 1) []).rxbuf = [] := by decide

theorem witness_B2bIsLeastSignificantBitFirst : ([0x48, 0x69] : Bytes)[1]? = some 0x69 ∧ (7 : Nat) < 8 := by decide

theorem witness_Bits2bPadsTheHighEnd : (bits2b (List.replicate 9 true))[1]? = some 0x01 := by decide

theorem witness_StuffScansLeftToRight : (true :: [false, true]).take 7 ≠ Config.spat ∧
    (true :: [false, true, false, true, false, false]).take 7 ≠ Config.spat := by decide

theorem witness_UnstuffScansLeftToRight : Config.spat.take 8 ≠ Config.srep ∧ Config.delim.take 8 ≠ Config.srep := by decide

theorem witness_UnstuffInvertsStuff : stuff Config.spat = stuff Config.spat ∧ stuff (unstuff Config.delim) ≠ Config.delim ∧
    stuff (unstuff Config.srep) = Config.srep := by decide

theorem witness_UnstuffIsPrefixStable : 7 < Config.srep.length ∧ 0 < Config.srep.length := by decide

theorem witness_XorsumIsTheParityOfEachColumn : (xorsum [0x80, 0x01]).getLsbD 7 = true ∧ (7 : Nat) < 8 ∧
    (xorsum [0x80, 0x80]).getLsbD 7 = false := by decide

theorem witness_ChecksumMissesOnlyEvenColumns : ([1, 1] : Bytes).length = ([3, 3] : Bytes).length ∧ xorsum [1, 1] = 0 ∧
    xorsum [3, 3] = 0 ∧ xorsum [3, 1] ≠ 0 := by decide

theorem witness_BitSlipPassesOnMatchingLowBits : xorsum (0x81 :: [0x81]) = 0 ∧ (1 : Nat) ≤ 1 ∧ (7 : Nat) ≤ 7 := by decide

theorem witness_AppendedBitsNeverMoveTheFirstDelimiter : dscan Config.delim = some 0 ∧ dscan Config.spat = none ∧
    dscan (Config.spat ++ [false]) = some 0 := by decide

theorem witness_EncodeBuildsTheFrame : (List.replicate 15 (0 : Byte)).length ≤ 15 ∧
    15 < (List.replicate 16 (0 : Byte)).length := by decide

theorem witness_EncodedFrameHasTheFieldLayout :
    encodeFrame 15 1 1 [0x48, 0x69] = some (b2b hiWire) ∧ (encodeFrame 15 1 1 (List.replicate 15 1)).isSome := by decide +kernel

theorem witness_SerializeGivesTheWireImage : ([] : Bytes).length ≤ 15 ∧ (List.replicate 15 (0 : Byte)).length ≤ 15 ∧
    15 < (List.replicate 16 (0 : Byte)).length := by decide

theorem witness_EncodedFrameLengthIsBounded : encodeFrame 15 1 1 [0x48, 0x69] = some (b2b hiWire) := by decide +kernel

theorem witness_ResolveFindsTheSmallestWindow : resolve 15 (List.replicate 152 false) = some 152 ∧ resolve 15 [] = none :=
  ⟨zeros_resolve, by decide⟩

/-- At the capacities 15 and 0. -/
theorem witness_ResolveIsBoundedStableAndStreams :
    152 = 8 * (15 + 4) ∧ resolve 15 (List.replicate 152 false) = some 152 ∧ 32 = 8 * (0 + 4) ∧
    resolve 0 (List.replicate 32 false) = some 32 ∧ resolve 0 (List.replicate 10 false) = none :=
  ⟨rfl, zeros_resolve, rfl, by decide +kernel, by decide +kernel⟩

/-- Each clause: unwritten, no delimiter, a delimiter and no window, a delimiter and a window. -/
theorem witness_DecodeReportsTheFirstFailingTest :
    State.reset.localId = none ∧ (st (some 0) none []).localId = some 0 ∧ dscan Config.spat = none ∧
    dscan Config.delim = some 0 ∧ resolve 15 (Config.delim.drop (0 + 8)) = none ∧
    dscan (Config.delim ++ List.replicate 152 false) = some 0 ∧
    resolve 15 ((Config.delim ++ List.replicate 152 false).drop (0 + 8)) = some 152 :=
  ⟨by decide, by decide, by decide, by decide, by decide, by decide, zeros_resolve⟩

/-- With nothing before the frame, with bits before it, and with a frame for this engine and for another. -/
theorem witness_DecodeRecoversAnEncodedFrame : (st (some 1) none []).localId = some 1 ∧
    (st (some 2) none []).localId = some 2 ∧ encodeFrame 15 1 1 [0x48, 0x69] = some (b2b hiWire) ∧
    dscan ([] ++ Config.delim) = some 0 ∧ dscan ([false, false, false] ++ Config.delim) = some 3 := by decide +kernel

/-- Both sides of the eighth bit, and the last incomplete prefix. -/
theorem witness_IncompleteFrameNeedsMoreData : (st (some 1) none []).localId = some 1 ∧
    encodeFrame 15 1 1 [0x48, 0x69] = some (b2b hiWire) ∧
    160 + (if endsInMatch (b2b (protectedBytes 15 1 1 [0x48, 0x69])) then 1 else 0) = (b2b hiWire).length ∧
    7 < 160 ∧ 8 < 160 ∧ 159 < 160 := by decide +kernel

theorem witness_WireImageDecodesAndLeavesItsTail : 15 ≤ 255 ∧ serializeFrame 15 1 1 [0x48, 0x69] = some hiWire :=
  ⟨by decide, hi_serializes⟩

/-- The smallest and the largest capacity, each with its longest payload. -/
theorem witness_EveryCapacityHasTheRoundTrip : 0 ≤ 255 ∧ ([] : Bytes).length ≤ 0 ∧ 255 ≤ 255 ∧
    (List.replicate 255 (0 : Byte)).length ≤ 255 ∧ (st (some 2) (some 1) []).localId = some 2 ∧
    (st (some 2) (some 1) []).peerId = some 1 ∧ (st (some 1) none []).localId = some 1 ∧
    (st (some 1) none []).rxbuf = [] := by
  refine ⟨by omega, by decide, by omega, (List.length_replicate ..).le, ?_⟩
  decide

/-- Each precondition just met and just missed. -/
theorem witness_BufferPrimitives : 1 + 2 ≤ (st none none [true, false, true]).rxbuf.length ∧
    (st none none [true, false, true]).rxbuf.length < 2 + 2 ∧ 3 ≤ (st none none [true, false, true]).rxbuf.length ∧
    (st none none [true, false, true]).rxbuf.length < 4 := by decide

theorem witness_PollActsOnTheDecodeOutcome :
    State.reset.localId = none ∧ (st (some 1) none pending).localId = some 1 := by decide

theorem witness_BufferInvariantAfterEveryCommand :
    (after (exec .openChan (st none none [true]))).map (·.rxbuf) = some [] ∧ (st none none [true]).rxbuf ≠ [] := by decide

theorem witness_ConsumedCountIsInRange :
    consumedOf (parseFrame 15 1 (b2b hiWire)) = some 160 := by decide +kernel

theorem witness_NeedMoreDataChangesNothingButTheAppend :
    after (exec (.poll [0x55]) (st (some 1) none [])) =
      some { st (some 1) none Config.delim with reply := some ⟨.needMoreData, .poll .empty⟩ } := by decide

theorem witness_SplitPollEqualsOnePoll :
    (after (exec (.poll [0x55]) (st (some 1) none []))).map (·.reply) = some (some ⟨.needMoreData, .poll .empty⟩) := by
  decide

theorem witness_RecoveryAfterAWipe : (st (some 1) none [true, false]).localId = some 1 ∧
    dscan ((st (some 1) none [true, false]).rxbuf ++ b2b [0x00, 0xFF]) = none ∧
    serializeFrame 15 1 1 [0x48, 0x69] = some hiWire := ⟨by decide, by decide, hi_serializes⟩

theorem witness_OneFramePerPoll : (st (some 1) none []).localId = some 1 ∧ (st (some 1) none []).rxbuf = [] ∧
    serializeFrame 15 1 1 [0x48, 0x69] = some hiWire := ⟨by decide, by decide, hi_serializes⟩

/-- Two frames, cut in the middle of the first and with an empty chunk; the first does not end in a stuff bit. -/
theorem witness_WireImagesAreReceivedInAnyChunks :
    (st (some 1) none []).localId = some 1 ∧ (st (some 1) none []).rxbuf = [] ∧
    ([(1, [0x48, 0x69]), (1, [0x48, 0x69])] : List (Byte × Bytes)).map (fun f => serializeFrame 15 1 f.1 f.2) =
      [hiWire, hiWire].map some ∧
    [hiWire.take 7, [], hiWire.drop 7 ++ hiWire].flatten = [hiWire, hiWire].flatten ∧
    (∀ f ∈ ([(1, [0x48, 0x69]), (1, [0x48, 0x69])] : List (Byte × Bytes)).dropLast,
      ¬ (endsInMatch (b2b (protectedBytes 15 1 f.1 f.2)) = true ∧
        stuffCount (b2b (protectedBytes 15 1 f.1 f.2)) % 8 = 7)) := by decide +kernel

theorem witness_TrailingStuffBitHidesTheNextDelimiter : (st (some 0xAA) none []).localId = some 0xAA ∧
    (st (some 0xAA) none []).rxbuf = [] ∧
    serializeFrame 15 0xAA 0xAA [0x55, 0x55, 0xD0, 0xD5, 0xAB] = some hazardWire ∧
    endsInMatch (b2b (protectedBytes 15 0xAA 0xAA [0x55, 0x55, 0xD0, 0xD5, 0xAB])) = true ∧
    stuffCount (b2b (protectedBytes 15 0xAA 0xAA [0x55, 0x55, 0xD0, 0xD5, 0xAB])) % 8 = 7 := by decide +kernel

/-- The buffer exactly full and one bit too many. -/
theorem witness_BoundedBufferRefusesTheWholePoll :
    (st (some 1) none [true]).rxbuf.length + 8 * ([0x55] : Bytes).length ≤ 9 ∧
    8 < (st (some 1) none [true]).rxbuf.length + 8 * ([0x55] : Bytes).length := by decide

theorem witness_FrameOffTheLinkIsJudgedByItsFields : State.reset.localId = none ∧ (List.replicate 15 (0 : Byte)).length = 15 ∧
    (st (some 1) none []).localId = some 1 ∧ (st (some 1) none []).rxbuf = [] := by decide

end Sys2Proof.Tests
end

section
/-! Byte sequences as bits (40_bitcodec.md R70, R71): BITS2B inverts B2B, and B2B cuts at byte boundaries. -/

namespace Sys2Proof.Machine

/-- Bit `i` of the number a bitstring makes is its element `i` (R71). -/
theorem testBit_bitsNat (s : Bits) (i : Nat) : (bitsNat s).testBit i = s.getD i false := by
  induction s generalizing i with
  | nil => simp [bitsNat]
  | cons b rest ih =>
    have hbit : bitsNat (b :: rest) = Nat.bit b (bitsNat rest) := by
      cases b <;> simp [bitsNat, Nat.bit, Nat.add_comm]
    cases i with
    | zero => simp [hbit]
    | succ i => simp [hbit, Nat.testBit_bit_succ, ih]

/-- Bit `i` of the byte a bitstring makes (R71). -/
@[simp] theorem getLsbD_bitsByte (s : Bits) (i : Nat) :
    (bitsByte s).getLsbD i = (decide (i < 8) && s.getD i false) := by
  simp [bitsByte, BitVec.getLsbD_ofNat, testBit_bitsNat]

@[simp] theorem bitsByte_byteBits (b : Byte) : bitsByte (byteBits b) = b := by
  ext i hi
  rw [← BitVec.getLsbD_eq_getElem, getLsbD_bitsByte]
  interval_cases i <;> rfl

/-- BITS2B takes whole bytes off the front (R71). -/
@[simp] theorem bits2b_byteBits_append (b : Byte) (s : Bits) : bits2b (byteBits b ++ s) = b :: bits2b s := by
  calc bits2b (byteBits b ++ s) = bitsByte (byteBits b) :: bits2b s := rfl
    _ = b :: bits2b s := by rw [bitsByte_byteBits]

@[simp] theorem bits2b_b2b (a : Bytes) : bits2b (b2b a) = a := by
  induction a with
  | nil => rfl
  | cons b rest ih => simp [ih]

theorem drop_b2b (a : Bytes) (i : Nat) : (b2b a).drop (8 * i) = b2b (a.drop i) := by
  induction a generalizing i with
  | nil => simp
  | cons b rest ih =>
    cases i with
    | zero => rfl
    | succ i =>
      rw [b2b_cons, Nat.mul_succ, Nat.add_comm, ← List.drop_drop, List.drop_left' (byteBits_length b), ih,
        List.drop_succ_cons]

theorem take_b2b (a : Bytes) (n : Nat) : (b2b a).take (8 * n) = b2b (a.take n) := by
  by_cases h : n ≤ a.length
  · conv_lhs => rw [← List.take_append_drop n a, b2b_append]
    exact List.take_left' (by simp [b2b_length, h])
  · rw [List.take_of_length_le (by rw [b2b_length]; omega), List.take_of_length_le (by omega)]

/-- The bits at the offsets of bytes `i` to `i + n - 1` are those of these bytes (R50, R70). -/
theorem slice_b2b (a : Bytes) (i n : Nat) : ((b2b a).drop (8 * i)).take (8 * n) = b2b ((a.drop i).take n) := by
  rw [drop_b2b, take_b2b]

end Sys2Proof.Machine
end

section
/-! The stuffing codec (40_bitcodec.md R72 to R74): one equation per branch, and UNSTUFF inverts STUFF. -/

namespace Sys2Proof.Machine

theorem stuff_spat_append (rest : Bits) : stuff (Config.spat ++ rest) = Config.srep ++ stuff rest := rfl

theorem unstuff_srep_append (rest : Bits) : unstuff (Config.srep ++ rest) = Config.spat ++ unstuff rest := rfl

/-- STUFF copies one bit where the next seven are not `SPAT` (R72). -/
theorem stuff_cons_of_ne {b : Bit} {rest : Bits} (h : (b :: rest).take 7 ≠ Config.spat) :
    stuff (b :: rest) = b :: stuff rest :=
  stuff.eq_2 b rest fun r hb hr => h (by subst hb hr; rfl)

/-- UNSTUFF copies one bit where the next eight are not `SREP` (R73). -/
theorem unstuff_cons_of_ne {b : Bit} {rest : Bits} (h : (b :: rest).take 8 ≠ Config.srep) :
    unstuff (b :: rest) = b :: unstuff rest :=
  unstuff.eq_2 b rest fun r hb hr => h (by subst hb hr; rfl)

/-- A bitstring is empty, begins with `SPAT`, or begins with a bit that STUFF copies: the induction along STUFF's scan
(R72). -/
theorem stuffScan_induction {motive : Bits → Prop} (nil : motive [])
    (spat : ∀ rest, motive rest → motive (Config.spat ++ rest))
    (copy : ∀ b rest, (b :: rest).take 7 ≠ Config.spat → motive rest → motive (b :: rest)) (s : Bits) : motive s := by
  induction s using stuff.induct with
  | case1 rest ih => exact spat rest ih
  | case2 b rest hne ih =>
    refine copy b rest (fun h => ?_) ih
    have hsplit := List.take_append_drop 7 (b :: rest)
    rw [h] at hsplit
    obtain ⟨hb, hr⟩ := List.cons.inj hsplit
    exact hne _ hb.symm hr.symm
  | case3 => exact nil

/-- The first bit STUFF inserts stands behind a whole `SPAT`, so up to seven bits of its output are those of its input. -/
theorem take_stuff (s : Bits) {n : Nat} (hn : n ≤ 7) : (stuff s).take n = s.take n := by
  induction s using stuffScan_induction generalizing n with
  | nil => rfl
  | spat rest _ =>
    rw [stuff_spat_append]
    interval_cases n <;> rfl
  | copy b rest hne ih =>
    rw [stuff_cons_of_ne hne]
    cases n with
    | zero => rfl
    | succ n => rw [List.take_succ_cons, List.take_succ_cons, ih (by omega)]

/-- Where STUFF copies a bit, its output does not begin with `SREP`: that would be a `SPAT` of the input. -/
theorem take_cons_stuff_ne_srep {b : Bit} {rest : Bits} (h : (b :: rest).take 7 ≠ Config.spat) :
    (b :: stuff rest).take 8 ≠ Config.srep := by
  intro hs
  apply h
  calc (b :: rest).take 7 = (b :: stuff rest).take 7 := by
        rw [List.take_succ_cons, List.take_succ_cons, take_stuff rest (by decide)]
    _ = ((b :: stuff rest).take 8).take 7 := by rw [List.take_take]; rfl
    _ = Config.spat := by rw [hs]; rfl

@[simp] theorem unstuff_stuff (s : Bits) : unstuff (stuff s) = s := by
  induction s using stuffScan_induction with
  | nil => rfl
  | spat rest ih => rw [stuff_spat_append, unstuff_srep_append, ih]
  | copy b rest hne ih => rw [stuff_cons_of_ne hne, unstuff_cons_of_ne (take_cons_stuff_ne_srep hne), ih]

end Sys2Proof.Machine
end

section
/-! The protected bytes and the encoded form of a frame (30_encoding.md R50, R57). -/

namespace Sys2Proof.Machine

/-- The Checksum byte makes the exclusive or of the protected bytes zero (R50, R80). -/
@[simp] theorem xorsum_protectedBytes (cap : Nat) (dst src : Byte) (payload : Bytes) :
    xorsum (protectedBytes cap dst src payload) = 0 := by
  simp [protectedBytes, xorsum_append]

theorem take_encodedFrame (bytes : Bytes) : (encodedFrame bytes).take 8 = Config.delim := rfl

/-- Behind the delimiter an encoded frame is the stuffed image (R57). -/
@[simp] theorem unstuff_drop_encodedFrame (bytes : Bytes) : unstuff ((encodedFrame bytes).drop 8) = b2b bytes :=
  unstuff_stuff (b2b bytes)

/-- The padded Payload stands at byte offset 3 of the protected bytes (R50). -/
theorem payload_protectedBytes {cap : Nat} {payload : Bytes} (dst src : Byte) (h : payload.length ≤ cap) :
    ((protectedBytes cap dst src payload).drop 3).take cap = payload ++ List.replicate (cap - payload.length) 0 := by
  have hpad : (payload ++ List.replicate (cap - payload.length) (0 : Byte)).length = cap := by simp [h]
  exact List.take_left' hpad

/-- The Checksum stands behind the `CAP + 3` bytes of the body (R50). -/
theorem take_protectedBytes {cap : Nat} {payload : Bytes} (dst src : Byte) (h : payload.length ≤ cap) :
    (protectedBytes cap dst src payload).take (cap + 3) = frameBody cap dst src payload :=
  List.take_left' (frameBody_length cap dst src payload h)

theorem drop_protectedBytes {cap : Nat} {payload : Bytes} (dst src : Byte) (h : payload.length ≤ cap) :
    (protectedBytes cap dst src payload).drop (cap + 3) = [xorsum (frameBody cap dst src payload)] :=
  List.drop_left' (frameBody_length cap dst src payload h)

end Sys2Proof.Machine
end

section
/-! Which command codes are reserved (30_encoding.md R64), and the step for each answer of the decoder. -/

namespace Sys2Proof.Machine

/-- The reserved codes, as R64 lists them. -/
abbrev ReservedCode (c : Byte) : Prop := c = 0x00 ∨ (0x07 ≤ c ∧ c ≤ 0x0F) ∨ (0x19 ≤ c ∧ c ≤ 0xFF)

theorem reservedCode_iff_toNat (c : Byte) :
    ReservedCode c ↔ c.toNat = 0 ∨ (7 ≤ c.toNat ∧ c.toNat ≤ 15) ∨ 25 ≤ c.toNat := by
  simp only [ReservedCode, BitVec.le_def, ← BitVec.toNat_inj, BitVec.reduceToNat]
  omega

/-- The decoder rejects exactly the reserved codes (R60, R64). -/
theorem decodeCommand_cases (r : Request) :
    (ReservedCode r.cmd ∧ decodeCommand r = .error (.reservedCode r.cmd)) ∨
    (¬ ReservedCode r.cmd ∧ ∃ i, decodeCommand r = .ok i) := by
  rw [reservedCode_iff_toNat]
  unfold decodeCommand
  split
  case h_16 =>
    refine .inl ⟨?_, rfl⟩
    simp only [imp_false] at *
    omega
  all_goals exact .inr ⟨by omega, _, rfl⟩

theorem step_of_decode_ok {s : State} {x : Input} {rest : List Input} {i : Instr} (hs : s.input = x :: rest)
    (hd : decode x = .ok i) : step s = exec i { s with input := rest } := by
  simp only [step, takeInput_cons hs, hd]

theorem step_of_decode_error {s : State} {x : Input} {rest : List Input} {e : DecodeError} (hs : s.input = x :: rest)
    (hd : decode x = .error e) : step s = .next (badCommand { s with input := rest }) := by
  simp only [step, takeInput_cons hs, hd]

end Sys2Proof.Machine
end

section
/-! What DECODE consumes is there (42_framecodec.md R95), so POLL answers in every state (43_receive.md R110, R116). -/

namespace Sys2Proof.Machine

/-- At the index DSCAN gives the next eight bits are `DELIM` (R82). -/
theorem take_drop_of_dscan {s : Bits} {k : Nat} (h : dscan s = some k) : (s.drop k).take 8 = Config.delim := by
  induction s generalizing k with
  | nil => cases h
  | cons b rest ih =>
    unfold dscan at h
    split at h
    · cases h; assumption
    · obtain ⟨j, hj, rfl⟩ := Option.map_eq_some_iff.mp h
      exact ih hj

theorem dscan_add_eight_le {s : Bits} {k : Nat} (h : dscan s = some k) : k + 8 ≤ s.length := by
  have hlen := congrArg List.length (take_drop_of_dscan h)
  simp only [List.length_take, List.length_drop, Config.delim, List.length_cons, List.length_nil] at hlen
  omega

/-- A resolved window lies in the candidate and unstuffs to `N` bits (R93). -/
theorem resolve_eq_some {cap : Nat} {cand : Bits} {w : Nat} (h : resolve cap cand = some w) :
    w ≤ cand.length ∧ (unstuff (cand.take w)).length = Config.frameBits cap := by
  have hmem := List.mem_of_find?_eq_some h
  have hlen := List.find?_some h
  rw [List.mem_range] at hmem
  exact ⟨by omega, by simpa using hlen⟩

@[simp] theorem consumedOf_judgeFrame (cap : Nat) (id : Byte) (c : Nat) (bytes : Bytes) :
    consumedOf (judgeFrame cap id c bytes) = some c := by
  obtain h | h | h | ⟨src, p, h, -⟩ := judgeFrame_cases cap id c bytes <;> rw [h] <;> rfl

/-- A consumed count is the place of the delimiter, its eight bits, and the window behind it (R95). -/
theorem consumedOf_parseFrame {cap : Nat} {id : Byte} {raw : Bits} {c : Nat}
    (h : consumedOf (parseFrame cap id raw) = some c) :
    ∃ k w, dscan raw = some k ∧ resolve cap (raw.drop (k + 8)) = some w ∧ c = k + 8 + w := by
  unfold parseFrame at h
  split at h
  · cases h
  · rename_i k hk
    split at h
    · cases h
    · rename_i w hw
      rw [consumedOf_judgeFrame] at h
      exact ⟨k, w, hk, hw, (Option.some.inj h).symm⟩

/-- No more bits are consumed than there are (R95). -/
theorem consumedOf_parseFrame_le {cap : Nat} {id : Byte} {raw : Bits} {c : Nat}
    (h : consumedOf (parseFrame cap id raw) = some c) : c ≤ raw.length := by
  obtain ⟨k, w, hk, hw, rfl⟩ := consumedOf_parseFrame h
  have hkl := dscan_add_eight_le hk
  have hwl := (resolve_eq_some hw).1
  rw [List.length_drop] at hwl
  omega

/-- What POLL answers for what DECODE found in the buffer (30_encoding.md R63, 43_receive.md R110). -/
def pollReply : Parsed → Reply
  | .noDelimiter => ⟨.noDelimiter, .poll .startSymbolNotFound⟩
  | .needMoreData => ⟨.needMoreData, .poll .empty⟩
  | .checksumMismatch _ => ⟨.checksumMismatch, .poll .empty⟩
  | .notAddressedToMe _ => ⟨.notAddressedToMe, .poll .empty⟩
  | .lengthOutOfRange _ => ⟨.lengthOutOfRange, .poll .empty⟩
  | .ok _ _ _ payload => ⟨.ok, .poll (.payload payload)⟩

/-- What POLL leaves of a buffer in which DECODE found `f` (R110): nothing without a delimiter, else all but the consumed
bits. -/
def pollRest (f : Parsed) (buf : Bits) : Bits :=
  match f with
  | .noDelimiter => []
  | _ => buf.drop ((consumedOf f).getD 0)

/-- Where the removal is in range, POLL's steps 3 to 6 give the next state (R110, R116). -/
theorem applyParsed_of_consumed_le {f : Parsed} {s : State} (h : ∀ c, consumedOf f = some c → c ≤ s.rxbuf.length) :
    applyParsed f s = .next { s with rxbuf := pollRest f s.rxbuf, reply := some (pollReply f) } := by
  cases f with
  | noDelimiter => rfl
  | needMoreData => rfl
  | checksumMismatch c => exact dropAndAnswer_of_le (h c rfl)
  | notAddressedToMe c => exact dropAndAnswer_of_le (h c rfl)
  | lengthOutOfRange c => exact dropAndAnswer_of_le (h c rfl)
  | ok c dst src payload => exact dropAndAnswer_of_le (h c rfl)

/-- POLL with `LOCAL_ID` unwritten (44_control_send.md R129). -/
theorem exec_poll_of_none {s : State} (h : s.localId = none) (b : Bytes) :
    exec (.poll b) s = .next { s with reply := some ⟨.refused, .poll .notExecuted⟩ } := by
  simp [exec, execPoll, pollWith, h, answer]

/-- POLL with `LOCAL_ID` written: the whole next state, by what DECODE finds in the buffer after the append (R110). -/
theorem exec_poll_of_some {s : State} {id : Byte} (h : s.localId = some id) (b : Bytes) :
    exec (.poll b) s = .next { s with
      rxbuf := pollRest (parseFrame Config.cap id (s.rxbuf ++ b2b b)) (s.rxbuf ++ b2b b)
      reply := some (pollReply (parseFrame Config.cap id (s.rxbuf ++ b2b b))) } :=
  (execPoll_of_some h b).trans (applyParsed_of_consumed_le fun _ hc => consumedOf_parseFrame_le hc)

end Sys2Proof.Machine
end

section
/-! The statements of spec/30_encoding.md about reserved codes (R64), POLL's result class (R63) and a frame's layout
(R50). -/

namespace Sys2Proof.Proofs

open Sys2Proof.Machine

/-- Settles O4: the decoder rejects exactly the codes R64 reserves, and the step follows the decoder. -/
theorem reservedCodeAnswersBadCommand : Obligations.ReservedCodeAnswersBadCommand := by
  refine ⟨rfl, fun s r rest hs => ?_⟩
  obtain ⟨hres, hd⟩ | ⟨hres, i, hd⟩ := decodeCommand_cases r
  · rw [if_pos hres, step_of_decode_error hs hd]
    rfl
  · rw [if_neg hres]
    exact ⟨i, hd, step_of_decode_ok hs hd⟩

/-- Settles O11, by what POLL answers without `LOCAL_ID` and, with it, for each of the six things DECODE can find. -/
theorem pollResultIsAFunctionOfTheOutcome : Obligations.PollResultIsAFunctionOfTheOutcome := by
  intro newBytes s
  cases hl : s.localId with
  | none => exact ⟨_, _, _, exec_poll_of_none hl newBytes, rfl, by simp [pollResultCode]⟩
  | some id =>
    have hexec := exec_poll_of_some hl newBytes
    generalize parseFrame Config.cap id (s.rxbuf ++ b2b newBytes) = f at hexec
    cases f <;> exact ⟨_, _, _, hexec, rfl, by simp [pollResultCode, Reply.rbytesPort]⟩

/-- Settles O38: behind the delimiter the frame unstuffs to B2B of the protected bytes, of which each field is a slice at
byte boundaries. -/
theorem encodedFrameHasTheFieldLayout : Obligations.EncodedFrameHasTheFieldLayout := by
  intro cap dst src payload e he
  obtain ⟨hle, rfl⟩ := encodeFrame_eq_some.mp he
  have hoff : 8 * cap + 24 = 8 * (cap + 3) := by omega
  refine ⟨take_encodedFrame _, b2b (protectedBytes cap dst src payload), (unstuff_drop_encodedFrame _).symm,
    ?length, slice_b2b _ 0 1, slice_b2b _ 1 1, slice_b2b _ 2 1, ?payload, ?checksum, ?xor⟩
  case length => rw [b2b_length, protectedBytes_length cap dst src payload hle, Config.frameBytes]
  case payload => exact (slice_b2b _ 3 cap).trans (congrArg b2b (payload_protectedBytes dst src hle))
  case checksum =>
    rw [hoff, drop_b2b, take_b2b, bits2b_b2b, take_protectedBytes dst src hle, drop_protectedBytes dst src hle]
  case xor => rw [bits2b_b2b, xorsum_protectedBytes]

end Sys2Proof.Proofs
end

section
/-! What the commands of the bit codec answer (40_bitcodec.md R70, R72, R73), the single bits of B2B (R70), and how many
bits STUFF inserts (R72, corner case d). -/

namespace Sys2Proof.Machine

theorem exec_b2b (bytes : Bytes) (s : State) :
    exec (.b2b bytes) s = .next { s with reply := some ⟨.ok, .bits (b2b bytes)⟩ } := rfl

theorem exec_stuff (bits : Bits) (s : State) :
    exec (.stuff bits) s = .next { s with reply := some ⟨.ok, .bits (stuff bits)⟩ } := rfl

theorem exec_unstuff (bits : Bits) (s : State) :
    exec (.unstuff bits) s = .next { s with reply := some ⟨.ok, .bits (unstuff bits)⟩ } := rfl

/-- The bits of a byte stand least significant first (20_memory.md R35). -/
theorem getElem?_byteBits (b : Byte) {i : Nat} (hi : i < 8) : (byteBits b)[i]? = some (b.getLsbD i) := by
  interval_cases i <;> rfl

/-- Behind the bits of the first `j` bytes B2B begins with those of byte `j` (R70). -/
theorem getElem?_b2b {bytes : Bytes} {j i : Nat} {b : Byte} (hj : bytes[j]? = some b) (hi : i < 8) :
    (b2b bytes)[8 * j + i]? = some (b.getLsbD i) := by
  obtain ⟨hlt, rfl⟩ := List.getElem?_eq_some_iff.mp hj
  rw [← List.getElem?_drop, drop_b2b, List.drop_eq_getElem_cons hlt, b2b_cons,
    List.getElem?_append_left (by rwa [byteBits_length]), getElem?_byteBits _ hi]

theorem stuffCount_spat_append (rest : Bits) : stuffCount (Config.spat ++ rest) = stuffCount rest + 1 := rfl

/-- No match is counted where the next seven bits are not `SPAT` (R72). -/
theorem stuffCount_cons_of_ne {b : Bit} {rest : Bits} (h : (b :: rest).take 7 ≠ Config.spat) :
    stuffCount (b :: rest) = stuffCount rest :=
  stuffCount.eq_2 b rest fun r hb hr => h (by subst hb hr; rfl)

/-- STUFF adds one bit a match (R72, corner case d). -/
theorem length_stuff (s : Bits) : (stuff s).length = s.length + stuffCount s := by
  induction s using stuffScan_induction with
  | nil => rfl
  | spat rest ih =>
    rw [stuff_spat_append, stuffCount_spat_append, List.length_append, List.length_append, ih]
    simp only [Config.srep, Config.spat, List.length_cons, List.length_nil]
    omega
  | copy b rest hne ih =>
    rw [stuff_cons_of_ne hne, stuffCount_cons_of_ne hne, List.length_cons, List.length_cons, ih]
    omega

/-- Matches take seven bits each and never overlap (R72, corner case d). -/
theorem seven_mul_stuffCount_le (s : Bits) : 7 * stuffCount s ≤ s.length := by
  induction s using stuffScan_induction with
  | nil => exact Nat.le_refl 0
  | spat rest ih =>
    rw [stuffCount_spat_append, List.length_append]
    simp only [Config.spat, List.length_cons, List.length_nil]
    omega
  | copy b rest hne ih =>
    rw [stuffCount_cons_of_ne hne, List.length_cons]
    omega

/-- STUFF is injective (R72, corner case e), for UNSTUFF undoes it. -/
theorem stuff_injective : Function.Injective stuff :=
  Function.LeftInverse.injective unstuff_stuff

/-- STUFF undoes UNSTUFF exactly on what STUFF can send (R74). -/
theorem stuff_unstuff_eq_iff (t : Bits) : stuff (unstuff t) = t ↔ ∃ s, stuff s = t := by
  constructor
  · intro h
    exact ⟨unstuff t, h⟩
  · rintro ⟨s, rfl⟩
    rw [unstuff_stuff]

end Sys2Proof.Machine
end

section
/-! The statements of spec/40_bitcodec.md about B2B (R70), STUFF (R72), UNSTUFF (R73) and their inverse law (R74). -/

namespace Sys2Proof.Proofs

open Sys2Proof.Machine

/-- Settles O27: the round trip is by induction along STUFF's scan (`unstuff_stuff`), and the other two parts follow from
it. -/
theorem unstuffInvertsStuff : Obligations.UnstuffInvertsStuff :=
  ⟨unstuff_stuff, fun _ _ h => stuff_injective h, stuff_unstuff_eq_iff⟩

/-- Settles O23, by the place of a byte's bits in B2B. -/
theorem b2bIsLeastSignificantBitFirst : Obligations.B2bIsLeastSignificantBitFirst :=
  fun bytes s => ⟨b2b bytes, exec_b2b bytes s, b2b_length bytes, fun _ _ _ hj hi => getElem?_b2b hj hi⟩

/-- Settles O25: one equation of STUFF per clause, and the two counts along its scan. -/
theorem stuffScansLeftToRight : Obligations.StuffScansLeftToRight := by
  refine ⟨fun s => ?nil, fun rest s => ?spat, fun b rest s hne => ?copy, fun bits => ⟨length_stuff bits, ?count⟩⟩
  case nil => rw [exec_stuff, stuff_nil]
  case spat =>
    rw [exec_stuff, stuff_spat_append]
    rfl
  case copy => rw [exec_stuff, stuff_cons_of_ne hne]
  case count =>
    have hseven := seven_mul_stuffCount_le bits
    omega

/-- Settles O26: one equation of UNSTUFF per clause. -/
theorem unstuffScansLeftToRight : Obligations.UnstuffScansLeftToRight := by
  refine ⟨fun s => ?nil, fun rest s => ?srep, fun b rest s hne => ?copy⟩
  case nil => rw [exec_unstuff, unstuff_nil]
  case srep => rw [exec_unstuff, unstuff_srep_append]
  case copy => rw [exec_unstuff, unstuff_cons_of_ne hne]

end Sys2Proof.Proofs
end

section
/-! What XORSUM and DSCAN answer (41_scan_checksum.md R80, R82): a bit of the checksum is the parity of its column, and
the scan stops at or before any index at which `DELIM` stands. -/

namespace Sys2Proof.Machine

theorem exec_xorsum (bytes : Bytes) (s : State) :
    exec (.xorsum bytes) s = .next { s with reply := some ⟨.ok, .byte (xorsum bytes)⟩ } := rfl

theorem exec_dscan (bits : Bits) (s : State) :
    exec (.dscan bits) s = .next { s with reply := some ⟨.ok, .index (dscan bits)⟩ } := rfl

/-- A byte with the bit set turns the parity of the column over, any other keeps it (R80). -/
theorem getLsbD_xorsum (bytes : Bytes) (i : Nat) :
    (xorsum bytes).getLsbD i = true ↔ (bytes.countP fun b => b.getLsbD i) % 2 = 1 := by
  induction bytes with
  | nil => simp
  | cons b rest ih =>
    rw [xorsum_cons, BitVec.getLsbD_xor, List.countP_cons]
    cases hb : b.getLsbD i with
    | false => simpa using ih
    | true =>
      have hodd : ∀ n : Nat, (n + 1) % 2 = 1 ↔ ¬ n % 2 = 1 := by omega
      simp [hodd, ← ih]

/-- DSCAN stops at index 0 where the first eight bits are `DELIM` (R82). -/
theorem dscan_of_take {s : Bits} (h : s.take 8 = Config.delim) : dscan s = some 0 := by
  cases s with
  | nil => cases h
  | cons b rest => exact if_pos h

/-- DSCAN moves on by one bit where the next eight are not `DELIM` (R82). -/
theorem dscan_cons_of_ne {b : Bit} {rest : Bits} (h : (b :: rest).take 8 ≠ Config.delim) :
    dscan (b :: rest) = (dscan rest).map (· + 1) :=
  if_neg h

/-- DSCAN does not pass an index at which `DELIM` stands (R82, D7). -/
theorem exists_le_dscan {s : Bits} {k : Nat} (h : (s.drop k).take 8 = Config.delim) : ∃ j, j ≤ k ∧ dscan s = some j := by
  induction s generalizing k with
  | nil => simp [Config.delim] at h
  | cons b rest ih =>
    by_cases hb : (b :: rest).take 8 = Config.delim
    · exact ⟨0, Nat.zero_le k, dscan_of_take hb⟩
    · cases k with
      | zero => exact absurd h hb
      | succ k =>
        obtain ⟨j, hjk, hj⟩ := ih h
        exact ⟨j + 1, Nat.succ_le_succ hjk, by rw [dscan_cons_of_ne hb, hj, Option.map_some]⟩

/-- DSCAN gives the leftmost index at which `DELIM` stands (R82, D7). -/
theorem dscan_eq_some_iff {s : Bits} {k : Nat} :
    dscan s = some k ↔
      (s.drop k).take 8 = Config.delim ∧ ∀ j, j < k → (s.drop j).take 8 ≠ Config.delim := by
  constructor
  · refine fun hk => ⟨take_drop_of_dscan hk, fun j hjk hdelim => ?_⟩
    obtain ⟨i, hij, hi⟩ := exists_le_dscan hdelim
    have hik : i = k := Option.some.inj (hi.symm.trans hk)
    omega
  · rintro ⟨hdelim, hleft⟩
    obtain ⟨j, hjk, hj⟩ := exists_le_dscan hdelim
    have hge : ¬ j < k := fun hlt => hleft j hlt (take_drop_of_dscan hj)
    rw [hj, show j = k by omega]

/-- DSCAN gives no index exactly when `DELIM` stands nowhere (R82). -/
theorem dscan_eq_none_iff {s : Bits} : dscan s = none ↔ ∀ k, (s.drop k).take 8 ≠ Config.delim := by
  constructor
  · intro hnone k hdelim
    obtain ⟨j, -, hj⟩ := exists_le_dscan hdelim
    rw [hnone] at hj
    cases hj
  · intro hno
    exact Option.eq_none_iff_forall_ne_some.mpr fun k hk => hno k (take_drop_of_dscan hk)

end Sys2Proof.Machine
end

section
/-! The statements of spec/41_scan_checksum.md about XORSUM (R80) and DSCAN (R82). -/

namespace Sys2Proof.Proofs

open Sys2Proof.Machine

/-- Settles O31, by the parity of a column of the checksum. -/
theorem xorsumIsTheParityOfEachColumn : Obligations.XorsumIsTheParityOfEachColumn :=
  fun bytes s => ⟨xorsum bytes, exec_xorsum bytes s, fun i _ => getLsbD_xorsum bytes i⟩

/-- Settles O35, by where DSCAN stops and when it does not. -/
theorem dscanFindsTheLeftmostDelimiter : Obligations.DscanFindsTheLeftmostDelimiter :=
  fun bits s => ⟨dscan bits, exec_dscan bits s, fun _ => dscan_eq_some_iff, dscan_eq_none_iff⟩

end Sys2Proof.Proofs
end

section
/-! BITS2B on bitstrings of every length (40_bitcodec.md R71): whole bytes off the front, then at most one padded
byte. -/

namespace Sys2Proof.Machine

/-- The byte that up to eight bits make has these bits and zeros above them (R71). -/
theorem byteBits_bitsByte {s : Bits} (h : s.length ≤ 8) :
    byteBits (bitsByte s) = s ++ List.replicate (8 - s.length) false := by
  have hlen : (byteBits (bitsByte s)).length = (s ++ List.replicate (8 - s.length) false).length := by
    rw [byteBits_length, List.length_append, List.length_replicate]
    omega
  refine List.ext_getElem hlen fun i hi hi' => ?_
  have hbit : (byteBits (bitsByte s))[i] = s.getD i false := by
    rw [List.getElem_eq_iff, getElem?_byteBits _ hi, getLsbD_bitsByte, decide_eq_true (show i < 8 from hi),
      Bool.true_and]
  rw [hbit, List.getElem_append, List.getD_eq_getElem?_getD]
  split
  · rw [List.getElem?_eq_getElem ‹_›, Option.getD_some]
  · rw [List.getElem?_eq_none (by omega), List.getElem_replicate, Option.getD_none]

/-- One to seven bits make one byte (R71). -/
theorem bits2b_of_short {s : Bits} (hne : s ≠ []) (hlt : s.length < 8) : bits2b s = [bitsByte s] :=
  bits2b.eq_3 s hne fun _ _ _ _ _ _ _ _ _ hs => by
    subst hs
    simp only [List.length_cons] at hlt
    omega

/-- A bitstring is empty, has one to seven bits, or begins with the bits of a byte: the induction along BITS2B's groups
(R71). -/
theorem bitGroups_induction {motive : Bits → Prop} (nil : motive [])
    (short : ∀ s, s ≠ [] → s.length < 8 → motive s)
    (byte : ∀ b rest, motive rest → motive (byteBits b ++ rest)) (s : Bits) : motive s := by
  induction s using bits2b.induct with
  | case1 => exact nil
  | case2 b0 b1 b2 b3 b4 b5 b6 b7 rest ih =>
    have hbyte : byteBits (bitsByte [b0, b1, b2, b3, b4, b5, b6, b7]) = [b0, b1, b2, b3, b4, b5, b6, b7] :=
      byteBits_bitsByte (Nat.le_refl 8)
    have hmotive := byte (bitsByte [b0, b1, b2, b3, b4, b5, b6, b7]) rest ih
    rwa [hbyte] at hmotive
  | case3 s hne hshort =>
    refine short s hne ?_
    match s with
    | [] | [_] | [_, _] | [_, _, _] | [_, _, _, _] | [_, _, _, _, _] | [_, _, _, _, _, _] | [_, _, _, _, _, _, _] => simp
    | _ :: _ :: _ :: _ :: _ :: _ :: _ :: _ :: _ => exact (hshort _ _ _ _ _ _ _ _ _ rfl).elim

/-- BITS2B gives `ceil(L / 8)` bytes (R71). -/
theorem bits2b_length (s : Bits) : (bits2b s).length = (s.length + 7) / 8 := by
  induction s using bitGroups_induction with
  | nil => rfl
  | short s hne hlt =>
    have hpos := List.length_pos_iff.mpr hne
    rw [bits2b_of_short hne hlt, List.length_singleton]
    omega
  | byte b rest ih =>
    rw [bits2b_byteBits_append, List.length_cons, List.length_append, byteBits_length, ih]
    omega

/-- B2B undoes BITS2B up to the zeros that fill the last byte (R71). -/
theorem b2b_bits2b (s : Bits) : b2b (bits2b s) = s ++ List.replicate ((8 - s.length % 8) % 8) false := by
  induction s using bitGroups_induction with
  | nil => rfl
  | short s hne hlt =>
    have hpos := List.length_pos_iff.mpr hne
    have hpad : (8 - s.length % 8) % 8 = 8 - s.length := by omega
    rw [bits2b_of_short hne hlt, b2b_cons, b2b_nil, List.append_nil, byteBits_bitsByte hlt.le, hpad]
  | byte b rest ih =>
    rw [bits2b_byteBits_append, b2b_cons, ih, List.length_append, byteBits_length, Nat.add_mod_left,
      List.append_assoc]

end Sys2Proof.Machine
end

section
/-! What ENCODE and SERIALIZE answer (42_framecodec.md R90, R98). -/

namespace Sys2Proof.Machine

theorem foldl_xor_eq_xor_xorsum (bytes : Bytes) (c : Byte) : bytes.foldl (· ^^^ ·) c = c ^^^ xorsum bytes := by
  induction bytes generalizing c with
  | nil => simp
  | cons b rest ih => rw [List.foldl_cons, ih, xorsum_cons, BitVec.xor_assoc]

/-- Taking the exclusive or from the left is XORSUM (41_scan_checksum.md R80). -/
theorem foldl_xor_zero (bytes : Bytes) : bytes.foldl (· ^^^ ·) 0 = xorsum bytes :=
  (foldl_xor_eq_xor_xorsum bytes 0).trans BitVec.zero_xor

/-- ENCODE of a payload above `CAP` (R90). -/
theorem exec_encode_of_lt {payload : Bytes} (h : Config.cap < payload.length) (dst src : Byte) (s : State) :
    exec (.encode dst src payload) s = .next { s with reply := some ⟨.payloadTooLarge, .none⟩ } := by
  simp only [exec, execEncode, encodeWith, encodeFrame_eq_none.mpr h, answer]

/-- ENCODE of a payload of at most `CAP` bytes (R90). -/
theorem exec_encode_of_eq_some {dst src : Byte} {payload : Bytes} {e : Bits}
    (h : encodeFrame Config.cap dst src payload = some e) (s : State) :
    exec (.encode dst src payload) s = .next { s with reply := some ⟨.ok, .bits e⟩ } := by
  simp only [exec, execEncode, encodeWith, h, answer]

/-- SERIALIZE of a payload above `CAP` (R98). -/
theorem exec_serialize_of_lt {payload : Bytes} (h : Config.cap < payload.length) (dst src : Byte) (s : State) :
    exec (.serialize dst src payload) s = .next { s with reply := some ⟨.payloadTooLarge, .none⟩ } := by
  simp only [exec, execSerialize, serializeWith, serializeFrame, encodeFrame_eq_none.mpr h, Option.map_none, answer]

/-- SERIALIZE of a payload of at most `CAP` bytes is BITS2B of the encoded frame (R98). -/
theorem exec_serialize_of_eq_some {dst src : Byte} {payload : Bytes} {e : Bits}
    (h : encodeFrame Config.cap dst src payload = some e) (s : State) :
    exec (.serialize dst src payload) s = .next { s with reply := some ⟨.ok, .bytes (bits2b e)⟩ } := by
  simp only [exec, execSerialize, serializeWith, serializeFrame, h, Option.map_some, answer]

/-- An encoded frame has the eight bits of the delimiter, those of its bytes, and one stuff bit a match (R91). -/
theorem encodedFrame_length (bytes : Bytes) :
    (encodedFrame bytes).length = 8 + 8 * bytes.length + stuffCount (b2b bytes) := by
  rw [encodedFrame, List.length_append, length_stuff, b2b_length, ← Nat.add_assoc]
  rfl

/-- The delimiter of an encoded frame is the first byte of its wire image (20_memory.md R37). -/
theorem head?_bits2b_encodedFrame (bytes : Bytes) : (bits2b (encodedFrame bytes)).head? = some Config.delimByte := by
  have hdelim : encodedFrame bytes = byteBits Config.delimByte ++ stuff (b2b bytes) := rfl
  rw [hdelim, bits2b_byteBits_append, List.head?_cons]

end Sys2Proof.Machine
end

section
/-! RESOLVE and DECODE (42_framecodec.md R93, R95, R96): the smallest window, and DECODE's answer for each thing it can
find. -/

namespace Sys2Proof.Machine

/-- RESOLVE gives the smallest window that unstuffs to `N` bits (R93). -/
theorem resolve_eq_some_iff {cap : Nat} {cand : Bits} {w : Nat} :
    resolve cap cand = some w ↔
      w ≤ cand.length ∧ (unstuff (cand.take w)).length = Config.frameBits cap ∧
        ∀ v, v < w → (unstuff (cand.take v)).length ≠ Config.frameBits cap := by
  simp only [resolve, List.find?_range_eq_some, List.mem_range, Nat.lt_succ_iff, beq_iff_eq, Bool.not_eq_true',
    beq_eq_false_iff_ne]
  exact and_left_comm

/-- RESOLVE gives no window exactly when none unstuffs to `N` bits (R93). -/
theorem resolve_eq_none_iff {cap : Nat} {cand : Bits} :
    resolve cap cand = none ↔ ∀ w, w ≤ cand.length → (unstuff (cand.take w)).length ≠ Config.frameBits cap := by
  simp only [resolve, List.find?_range_eq_none, Nat.lt_succ_iff, Bool.not_eq_true', beq_eq_false_iff_ne]

/-- UNSTUFF only drops bits (40_bitcodec.md R73). -/
theorem length_unstuff_le (s : Bits) : (unstuff s).length ≤ s.length := by
  induction s using unstuff.induct with
  | case1 rest ih => exact Nat.add_le_add_right (Nat.le_succ_of_le ih) 7
  | case2 b rest hne ih =>
    rw [unstuff.eq_2 b rest hne]
    exact Nat.succ_le_succ ih
  | case3 => exact Nat.le_refl 0

/-- A resolved window has at least `N` bits (R93). -/
theorem frameBits_le_of_resolve {cap : Nat} {cand : Bits} {w : Nat} (h : resolve cap cand = some w) :
    Config.frameBits cap ≤ w :=
  calc Config.frameBits cap = (unstuff (cand.take w)).length := (resolve_eq_some h).2.symm
    _ ≤ (cand.take w).length := length_unstuff_le _
    _ ≤ w := List.length_take_le w cand

/-- A resolved window unstuffs to the bits of `FRAME_BYTES` bytes (R96 step 2). -/
theorem length_bits2b_of_resolve {cap : Nat} {cand : Bits} {w : Nat} (h : resolve cap cand = some w) :
    (bits2b (unstuff (cand.take w))).length = cap + 4 := by
  rw [bits2b_length, (resolve_eq_some h).2, Config.frameBits, Config.frameBytes]
  omega

/-- DECODE without a delimiter (R96 step 1). -/
theorem parseFrame_of_dscan_none {raw : Bits} (h : dscan raw = none) (cap : Nat) (id : Byte) :
    parseFrame cap id raw = .noDelimiter := by
  simp only [parseFrame, h]

/-- DECODE with a delimiter and no window behind it (R96 step 2). -/
theorem parseFrame_of_resolve_none {cap k : Nat} {raw : Bits} (hk : dscan raw = some k)
    (hw : resolve cap (raw.drop (k + 8)) = none) (id : Byte) : parseFrame cap id raw = .needMoreData := by
  simp only [parseFrame, hk, hw]

/-- DECODE with a delimiter and a window judges the window's bytes (R96 steps 3 to 5). -/
theorem parseFrame_of_resolve_some {cap k w : Nat} {raw : Bits} (hk : dscan raw = some k)
    (hw : resolve cap (raw.drop (k + 8)) = some w) (id : Byte) :
    parseFrame cap id raw = judgeFrame cap id (k + 8 + w) (bits2b (unstuff ((raw.drop (k + 8)).take w))) := by
  simp only [parseFrame, hk, hw]

/-- What DECODE answers for what it found, as one reply (R96, 60_exceptions.md R141). -/
abbrev decodeAnswer (f : Parsed) : Reply := ⟨(decodeReply f).1, (decodeReply f).2⟩

/-- DECODE with `LOCAL_ID` unwritten (44_control_send.md R129). -/
theorem exec_decode_of_none {s : State} (h : s.localId = none) (raw : Bits) :
    exec (.decode raw) s = .next { s with reply := some ⟨.refused, .none⟩ } := by
  simp only [exec, execDecode, decodeWith, h, answer]

/-- DECODE with `LOCAL_ID` written answers for what it found and changes nothing else (R96). -/
theorem exec_decode_of_some {s : State} {id : Byte} (h : s.localId = some id) (raw : Bits) :
    exec (.decode raw) s = .next { s with reply := some (decodeAnswer (parseFrame Config.cap id raw)) } := by
  simp only [exec, execDecode, decodeWith, h, answer]

/-- DECODE's answer on a window's bytes: the checksum, the address and the length test, the first that fails named (R96
steps 3 to 5). -/
theorem decodeAnswer_judgeFrame (cap : Nat) (id : Byte) (c : Nat) (dst src len : Byte) (rest : Bytes) :
    decodeAnswer (judgeFrame cap id c (dst :: src :: len :: rest)) =
      if xorsum (dst :: src :: len :: rest) ≠ 0 then ⟨.checksumMismatch, .count c⟩
      else if dst ≠ id then ⟨.notAddressedToMe, .count c⟩
      else if cap < len.toNat then ⟨.lengthOutOfRange, .count c⟩
      else ⟨.ok, .decoded c dst src (rest.take len.toNat)⟩ := by
  have hdst : fieldByte (dst :: src :: len :: rest) 0 = dst := rfl
  have hlen : fieldByte (dst :: src :: len :: rest) 2 = len := rfl
  rw [judgeFrame, hdst, hlen]
  split_ifs <;> rfl

end Sys2Proof.Machine
end

section
/-! The statements of spec/42_framecodec.md about ENCODE (R90), SERIALIZE (R98), RESOLVE (R93) and DECODE (R95, R96). -/

namespace Sys2Proof.Proofs

open Sys2Proof.Machine

/-- Settles O37: the frame's body is the one written out, and its Checksum is the exclusive or taken from the left. -/
theorem encodeBuildsTheFrame : Obligations.EncodeBuildsTheFrame := by
  refine fun dst src payload s => ⟨fun h => exec_encode_of_lt h dst src s, fun hle => ?_⟩
  refine ⟨frameBody 15 dst src payload, rfl, ?_⟩
  rw [exec_encode_of_eq_some (encodeFrame_eq_some.mpr ⟨hle, rfl⟩), foldl_xor_zero]
  rfl

/-- Settles O39: the wire image is BITS2B of the encoded frame, whose stuff bits are those above 160. -/
theorem serializeGivesTheWireImage : Obligations.SerializeGivesTheWireImage := by
  refine fun dst src payload s => ⟨fun h => exec_serialize_of_lt h dst src s, fun hle => ?_⟩
  have he : encodeFrame Config.cap dst src payload = some (encodedFrame (protectedBytes Config.cap dst src payload)) :=
    encodeFrame_eq_some.mpr ⟨hle, rfl⟩
  have hlen : (encodedFrame (protectedBytes Config.cap dst src payload)).length =
      160 + stuffCount (b2b (protectedBytes Config.cap dst src payload)) := by
    rw [encodedFrame_length, protectedBytes_length Config.cap dst src payload hle]
    rfl
  refine ⟨_, _, stuffCount (b2b (protectedBytes Config.cap dst src payload)), he, by omega,
    exec_serialize_of_eq_some he s, head?_bits2b_encodedFrame _, ?bytes, ?pad⟩
  case bytes =>
    rw [bits2b_length, hlen]
    omega
  case pad => rw [b2b_bits2b, hlen, Nat.mul_add_mod 8 20]

/-- Settles O41: RESOLVE tries the windows in order of length. -/
theorem resolveFindsTheSmallestWindow : Obligations.ResolveFindsTheSmallestWindow :=
  fun _ _ => ⟨fun _ => resolve_eq_some_iff, resolve_eq_none_iff⟩

/-- Settles O43: what DECODE finds follows the scan and the window, and a window's 19 bytes are judged field by field. -/
theorem decodeReportsTheFirstFailingTest : Obligations.DecodeReportsTheFirstFailingTest := by
  refine fun raw s => ⟨fun h => exec_decode_of_none h raw, fun id hid => ⟨?delimiter, ?data, ?window⟩⟩
  case delimiter =>
    intro hk
    rw [exec_decode_of_some hid, parseFrame_of_dscan_none hk]
    rfl
  case data =>
    intro k hk hw
    rw [exec_decode_of_some hid, parseFrame_of_resolve_none hk hw]
    rfl
  case window =>
    intro k w hk hw
    have hlow : 152 ≤ w := frameBits_le_of_resolve hw
    have hhigh : k + 8 + w ≤ raw.length := by
      refine consumedOf_parseFrame_le (cap := Config.cap) (id := id) ?_
      rw [parseFrame_of_resolve_some hk hw, consumedOf_judgeFrame]
    have hbytes : (bits2b (unstuff ((raw.drop (k + 8)).take w))).length = 19 := length_bits2b_of_resolve hw
    have hexec := exec_decode_of_some hid raw
    rw [parseFrame_of_resolve_some hk hw] at hexec
    match hfields : bits2b (unstuff ((raw.drop (k + 8)).take w)), hbytes with
    | dst :: src :: len :: rest, hbytes =>
      rw [hfields, decodeAnswer_judgeFrame] at hexec
      exact ⟨dst, src, len, rest, k + 8 + w, rfl, Nat.succ.inj (Nat.succ.inj (Nat.succ.inj hbytes)), rfl, by omega,
        hhigh, hexec⟩

end Sys2Proof.Proofs
end

section
/-! Reading an encoded frame back (42_framecodec.md R93, R96, R97): every window within the stuffed image unstuffs to a
beginning of the image's input, so the one RESOLVE stops at gives all of it, whatever stands behind the frame. -/

namespace Sys2Proof.Machine

/-- UNSTUFF of a beginning of STUFF's output gives a beginning of STUFF's input (R72, R73). -/
theorem unstuff_take_stuff_prefix (s : Bits) (v : Nat) : unstuff ((stuff s).take v) <+: s := by
  induction s using stuffScan_induction generalizing v with
  | nil => simp
  | spat rest ih =>
    rw [stuff_spat_append]
    by_cases hv : v < 8
    · have hcut : unstuff (Config.srep.take v) <+: Config.spat := by interval_cases v <;> decide
      rw [List.take_append_of_le_length hv.le]
      exact hcut.trans (List.prefix_append _ _)
    · obtain ⟨u, rfl⟩ := Nat.exists_eq_add_of_le (not_lt.mp hv)
      rw [← show Config.srep.length = 8 from rfl, List.take_length_add_append, unstuff_srep_append]
      exact (List.prefix_append_right_inj _).mpr (ih u)
  | copy b rest hne ih =>
    cases v with
    | zero => exact List.nil_prefix
    | succ v =>
      have hcopy : (b :: (stuff rest).take v).take 8 ≠ Config.srep := fun hs => by
        have hpre : (b :: (stuff rest).take v).take 8 <+: b :: stuff rest :=
          (List.take_prefix _ _).trans (List.take_prefix (v + 1) (b :: stuff rest))
        rw [hs] at hpre
        exact take_cons_stuff_ne_srep hne (List.prefix_iff_eq_take.mp hpre).symm
      rw [stuff_cons_of_ne hne, List.take_succ_cons, unstuff_cons_of_ne hcopy]
      exact (List.prefix_cons_inj b).mpr (ih v)

/-- RESOLVE finds a window in a stuffed image of `N` bits, and that window unstuffs to the image's input (R93, R97). -/
theorem resolve_stuff_append {cap : Nat} {s : Bits} (hs : s.length = Config.frameBits cap) (rest : Bits) :
    ∃ w, w ≤ (stuff s).length ∧ resolve cap (stuff s ++ rest) = some w ∧
      unstuff ((stuff s ++ rest).take w) = s := by
  have hwhole : unstuff ((stuff s ++ rest).take (stuff s).length) = s := by rw [List.take_left, unstuff_stuff]
  cases hw : resolve cap (stuff s ++ rest) with
  | none => exact absurd (hwhole ▸ hs) (resolve_eq_none_iff.mp hw _ (by simp))
  | some w =>
    obtain ⟨-, hlen, hleast⟩ := resolve_eq_some_iff.mp hw
    have hle : w ≤ (stuff s).length := not_lt.mp fun hlt => hleast _ hlt (hwhole.symm ▸ hs)
    rw [List.take_append_of_le_length hle] at hlen
    refine ⟨w, hle, rfl, ?_⟩
    rw [List.take_append_of_le_length hle]
    exact (unstuff_take_stuff_prefix s w).eq_of_length (hlen.trans hs.symm)

/-- DECODE of an encoded frame judges the frame's own bytes, whatever stands behind it, and consumes no more bits than the
frame has (R96, R97). -/
theorem parseFrame_encodedFrame_append {cap : Nat} {bytes : Bytes} (h : bytes.length = Config.frameBytes cap)
    (id : Byte) (rest : Bits) :
    ∃ c, c ≤ (encodedFrame bytes).length ∧
      parseFrame cap id (encodedFrame bytes ++ rest) = judgeFrame cap id c bytes := by
  have hbits : (b2b bytes).length = Config.frameBits cap := by rw [b2b_length, h, Config.frameBits]
  obtain ⟨w, hle, hw, hun⟩ := resolve_stuff_append hbits rest
  have hscan : dscan (encodedFrame bytes ++ rest) = some 0 := dscan_of_take rfl
  refine ⟨0 + 8 + w, ?_, ?_⟩
  · rw [encodedFrame, List.length_append]
    exact Nat.add_le_add_left hle 8
  · rw [parseFrame_of_resolve_some hscan hw]
    exact congrArg (judgeFrame cap id _) ((congrArg bits2b hun).trans (bits2b_b2b bytes))

/-- The bytes of a legal frame pass the checksum and the length test; the address decides (R96 steps 3 to 5). -/
theorem judgeFrame_protectedBytes {cap : Nat} {payload : Bytes} (hcap : cap ≤ 255) (hle : payload.length ≤ cap)
    (id dst src : Byte) (c : Nat) :
    judgeFrame cap id c (protectedBytes cap dst src payload) =
      if dst = id then .ok c dst src payload else .notAddressedToMe c := by
  have hdst : fieldByte (protectedBytes cap dst src payload) 0 = dst := rfl
  have hsrc : fieldByte (protectedBytes cap dst src payload) 1 = src := rfl
  have hlen : (fieldByte (protectedBytes cap dst src payload) 2).toNat = payload.length :=
    Nat.mod_eq_of_lt (by omega)
  have hpay : ((protectedBytes cap dst src payload).drop 3).take payload.length = payload := by
    rw [← Nat.min_eq_left hle, ← List.take_take, payload_protectedBytes dst src hle, List.take_left]
  rw [judgeFrame, hdst, hsrc, hlen, hpay, xorsum_protectedBytes, if_neg (not_not.mpr rfl), if_neg (not_lt.mpr hle),
    ite_not]

/-- POLL of a whole wire image for this engine, from an empty buffer, delivers its payload (43_receive.md R119). -/
theorem exec_poll_wireImage {s : State} {id src : Byte} {payload w : Bytes} (hid : s.localId = some id)
    (hbuf : s.rxbuf = []) (hw : serializeFrame Config.cap id src payload = some w) :
    ∃ t, exec (.poll w) s = .next t ∧ t.reply = some ⟨.ok, .poll (.payload payload)⟩ := by
  obtain ⟨e, he, rfl⟩ := serializeFrame_eq_some.mp hw
  obtain ⟨hle, rfl⟩ := encodeFrame_eq_some.mp he
  obtain ⟨c, -, hparse⟩ := parseFrame_encodedFrame_append (protectedBytes_length Config.cap id src payload hle) id
    (List.replicate ((8 - (encodedFrame (protectedBytes Config.cap id src payload)).length % 8) % 8) false)
  rw [← b2b_bits2b, judgeFrame_protectedBytes (by decide) hle, if_pos rfl] at hparse
  refine ⟨_, exec_poll_of_some hid _, ?_⟩
  rw [hbuf, List.nil_append, hparse]
  rfl

end Sys2Proof.Machine
end

section
/-! The statements of spec/43_receive.md about POLL's outcomes (R110) and the recovery after a wipe (R113, R119). -/

namespace Sys2Proof.Proofs

open Sys2Proof.Machine

/-- Settles O53: without a delimiter POLL leaves the buffer empty, and from an empty buffer a whole wire image is
delivered. -/
theorem recoveryAfterAWipe : Obligations.RecoveryAfterAWipe := by
  intro garbage s id hid hscan
  have hpoll := exec_poll_of_some hid garbage
  rw [parseFrame_of_dscan_none hscan] at hpoll
  exact ⟨_, hpoll, rfl, rfl, ⟨_, rfl, rfl⟩, fun _ _ _ hw => exec_poll_wireImage hid rfl hw⟩

/-- Settles O48: the next state is that of `exec_poll_of_some`, read off for each of the six things DECODE can find. -/
theorem pollActsOnTheDecodeOutcome : Obligations.PollActsOnTheDecodeOutcome := by
  refine fun newBytes s => ⟨fun h => exec_poll_of_none h newBytes, fun id hid => ⟨_, rfl, ?_⟩⟩
  rw [exec_poll_of_some hid]
  cases parseFrame Config.cap id (s.rxbuf ++ b2b newBytes) <;> rfl

end Sys2Proof.Proofs
end

section
/-! What the control commands and SEND answer (44_control_send.md R120 to R126), each case as the whole next state, and
what the reply of a command that reads no identifier depends on (R129). -/

namespace Sys2Proof.Machine

/-- SETLOCAL with a delimiter in the buffer (R120, 10_state.md R17). -/
theorem exec_setlocal_of_dscan_some {s : State} {k : Nat} (h : dscan s.rxbuf = some k) (id : Byte) :
    exec (.setlocal id) s = .next { s with reply := some ⟨.refused, .none⟩ } := by
  simp [exec, execSetlocal, midAssembly, h, answer]

/-- SETLOCAL with no delimiter in the buffer (R120). -/
theorem exec_setlocal_of_dscan_none {s : State} (h : dscan s.rxbuf = none) (id : Byte) :
    exec (.setlocal id) s = .next { s with localId := some id, reply := some ⟨.ok, .none⟩ } := by
  simp [exec, execSetlocal, midAssembly, h, answer]

/-- SETPEER with a delimiter in the buffer (R121, 10_state.md R17). -/
theorem exec_setpeer_of_dscan_some {s : State} {k : Nat} (h : dscan s.rxbuf = some k) (id : Byte) :
    exec (.setpeer id) s = .next { s with reply := some ⟨.refused, .none⟩ } := by
  simp [exec, execSetpeer, midAssembly, h, answer]

/-- SETPEER with no delimiter in the buffer (R121). -/
theorem exec_setpeer_of_dscan_none {s : State} (h : dscan s.rxbuf = none) (id : Byte) :
    exec (.setpeer id) s = .next { s with peerId := some id, reply := some ⟨.ok, .none⟩ } := by
  simp [exec, execSetpeer, midAssembly, h, answer]

theorem exec_openChan (s : State) :
    exec .openChan s = .next { s with rxbuf := [], reply := some ⟨.ok, .none⟩ } := rfl

theorem exec_closeChan (s : State) :
    exec .closeChan s = .next { s with rxbuf := [], reply := some ⟨.ok, .none⟩ } := rfl

/-- ENCODE builds a frame of every payload of at most `CAP` bytes (42_framecodec.md R90). -/
theorem encodeFrame_of_le {cap : Nat} {payload : Bytes} (h : payload.length ≤ cap) (dst src : Byte) :
    encodeFrame cap dst src payload = some (encodedFrame (protectedBytes cap dst src payload)) :=
  encodeFrame_eq_some.mpr ⟨h, rfl⟩

/-- SEND with an identifier unwritten, whatever the payload (R129). -/
theorem exec_send_of_none {s : State} (h : s.localId = none ∨ s.peerId = none) (payload : Bytes) :
    exec (.send payload) s = .next { s with reply := some ⟨.refused, .none⟩ } := by
  obtain ⟨-, hsend⟩ | ⟨l, p, hl, hp, -⟩ := sendWith_cases Config.cap payload s
  · exact hsend
  · simp [hl, hp] at h

section
variable {s : State} {l p : Byte} {payload : Bytes} (hl : s.localId = some l) (hp : s.peerId = some p)
include hl hp

/-- SEND of a payload above `CAP` (R126, 60_exceptions.md R144). -/
theorem exec_send_of_lt (h : Config.cap < payload.length) :
    exec (.send payload) s = .next { s with reply := some ⟨.payloadTooLarge, .none⟩ } := by
  simp only [exec, execSend, sendWith, hl, hp, serializeFrame, encodeFrame_eq_none.mpr h, Option.map_none, answer]

/-- SEND of a payload of at most `CAP` bytes is one write of the frame's wire image (R126). -/
theorem exec_send_of_eq_some {e : Bits} (h : encodeFrame Config.cap p l payload = some e) :
    exec (.send payload) s = .next { s with chan := s.chan ++ [bits2b e], reply := some ⟨.ok, .none⟩ } := by
  simp only [exec, execSend, sendWith, hl, hp, serializeFrame, h, Option.map_some, chanWrite, answer]

end

/-- The reply of a command that reads no identifier is fixed by the buffer (R129, 10_state.md R22). -/
theorem exists_reply_of_reads_no_identifier {i : Instr} (hl : readsLocal i = false) (hp : readsPeer i = false)
    (buf : Bits) : ∃ r, ∀ s : State, s.rxbuf = buf → ∃ t, exec i s = .next t ∧ t.reply = some r := by
  cases i with
  | setlocal id =>
    cases hscan : dscan buf with
    | none => exact ⟨_, fun s hs => ⟨_, exec_setlocal_of_dscan_none (hs ▸ hscan) id, rfl⟩⟩
    | some k => exact ⟨_, fun s hs => ⟨_, exec_setlocal_of_dscan_some (hs ▸ hscan) id, rfl⟩⟩
  | setpeer id =>
    cases hscan : dscan buf with
    | none => exact ⟨_, fun s hs => ⟨_, exec_setpeer_of_dscan_none (hs ▸ hscan) id, rfl⟩⟩
    | some k => exact ⟨_, fun s hs => ⟨_, exec_setpeer_of_dscan_some (hs ▸ hscan) id, rfl⟩⟩
  | encode dst src payload =>
    obtain hlt | hle := lt_or_ge Config.cap payload.length
    · exact ⟨_, fun s _ => ⟨_, exec_encode_of_lt hlt dst src s, rfl⟩⟩
    · exact ⟨_, fun s _ => ⟨_, exec_encode_of_eq_some (encodeFrame_of_le hle dst src) s, rfl⟩⟩
  | serialize dst src payload =>
    obtain hlt | hle := lt_or_ge Config.cap payload.length
    · exact ⟨_, fun s _ => ⟨_, exec_serialize_of_lt hlt dst src s, rfl⟩⟩
    · exact ⟨_, fun s _ => ⟨_, exec_serialize_of_eq_some (encodeFrame_of_le hle dst src) s, rfl⟩⟩
  | openChan | closeChan | b2b | bits2b | stuff | unstuff | xorsum | dscan => exact ⟨_, fun _ _ => ⟨_, rfl, rfl⟩⟩
  | send | poll | decode | frame => cases hl

end Sys2Proof.Machine
end

section
/-! The statements of spec/44_control_send.md about the identifiers (R120, R121, R129), OPEN and CLOSE (R122, R123) and
SEND (R126). -/

namespace Sys2Proof.Proofs

open Sys2Proof.Machine

/-- Settles O17: `MidAssembly` is DSCAN's answer on the buffer, an index exactly where some eight bits are `DELIM`. -/
theorem identifierWritesAreRefusedMidAssembly : Obligations.IdentifierWritesAreRefusedMidAssembly := by
  refine fun id s => ⟨fun ⟨k, hdelim⟩ => ?_, fun hno => ?_⟩
  · obtain ⟨j, -, hscan⟩ := exists_le_dscan hdelim
    exact ⟨exec_setlocal_of_dscan_some hscan id, exec_setpeer_of_dscan_some hscan id⟩
  · have hscan := dscan_eq_none_iff.mpr hno
    exact ⟨exec_setlocal_of_dscan_none hscan id, exec_setpeer_of_dscan_none hscan id⟩

/-- Settles O19: SEND and SERIALIZE both give BITS2B of the frame ENCODE builds, whose Checksum is the exclusive or taken
from the left. -/
theorem sendWritesOneWireImage : Obligations.SendWritesOneWireImage := by
  refine fun payload s => ⟨fun h => exec_send_of_none h payload, fun l p hl hp =>
    ⟨fun hlt => exec_send_of_lt hl hp hlt, fun hle => ?_⟩⟩
  have hframe := encodeFrame_of_le (cap := Config.cap) hle p l
  refine ⟨frameBody 15 p l payload, _, rfl, rfl, ?_⟩
  rw [foldl_xor_zero]
  exact ⟨exec_serialize_of_eq_some hframe s, exec_send_of_eq_some hl hp hframe⟩

/-- Settles O9: the three commands that need an identifier are refused without it, and the reply of any other is fixed by
the buffer, which the identifiers do not touch. -/
theorem unwrittenIdentifierRefuses : Obligations.UnwrittenIdentifierRefuses := by
  refine ⟨fun _ b h => exec_decode_of_none h b, fun _ b h => exec_poll_of_none h b, fun _ b h => exec_send_of_none h b,
    fun i s l p hl hp => ?_⟩
  obtain ⟨r, hreply⟩ := exists_reply_of_reads_no_identifier hl hp s.rxbuf
  obtain ⟨t, ht, htr⟩ := hreply s rfl
  obtain ⟨u, hu, hur⟩ := hreply { s with localId := l, peerId := p } rfl
  exact ⟨t, u, ht, hu, htr.trans hur.symm⟩

/-- Settles O18, by what OPEN and CLOSE answer. -/
theorem openAndCloseClearOnlyTheBuffer : Obligations.OpenAndCloseClearOnlyTheBuffer :=
  fun s => ⟨exec_openChan s, exec_closeChan s⟩

end Sys2Proof.Proofs
end

section
/-! What a command and a step can do to the identifiers (10_state.md R22, 70_reset_and_hazards.md R161). -/

namespace Sys2Proof.Machine

/-- The commands of R22 with no write to an identifier leave both as they are. -/
theorem identifiers_eq_of_exec {i : Instr} {s t : State} (hl : writesLocal i = false) (hp : writesPeer i = false)
    (h : exec i s = .next t) : t.localId = s.localId ∧ t.peerId = s.peerId := by
  cases i with
  | setlocal => cases hl
  | setpeer => cases hp
  | openChan | closeChan | b2b | bits2b | stuff | unstuff | xorsum | dscan => cases h; exact ⟨rfl, rfl⟩
  | poll | frame => rw [pollWith_next h]; exact ⟨rfl, rfl⟩
  | send payload =>
    obtain ⟨-, hsend⟩ | ⟨l, p, -, -, ⟨-, hsend⟩ | ⟨w, -, hsend⟩⟩ := sendWith_cases Config.cap payload s <;>
      cases hsend.symm.trans h <;> exact ⟨rfl, rfl⟩
  | decode raw =>
    cases hid : s.localId with
    | none => cases (exec_decode_of_none hid raw).symm.trans h; exact ⟨hid, rfl⟩
    | some id => cases (exec_decode_of_some hid raw).symm.trans h; exact ⟨hid, rfl⟩
  | encode dst src payload =>
    obtain hlt | hle := lt_or_ge Config.cap payload.length
    · cases (exec_encode_of_lt hlt dst src s).symm.trans h; exact ⟨rfl, rfl⟩
    · cases (exec_encode_of_eq_some (encodeFrame_of_le hle dst src) s).symm.trans h; exact ⟨rfl, rfl⟩
  | serialize dst src payload =>
    obtain hlt | hle := lt_or_ge Config.cap payload.length
    · cases (exec_serialize_of_lt hlt dst src s).symm.trans h; exact ⟨rfl, rfl⟩
    · cases (exec_serialize_of_eq_some (encodeFrame_of_le hle dst src) s).symm.trans h; exact ⟨rfl, rfl⟩

/-- SETLOCAL keeps `PEER_ID`, and keeps `LOCAL_ID` or writes its operand there (R120). -/
theorem identifiers_of_exec_setlocal {id : Byte} {s t : State} (h : exec (.setlocal id) s = .next t) :
    (t.localId = s.localId ∨ t.localId = some id) ∧ t.peerId = s.peerId := by
  cases hscan : dscan s.rxbuf with
  | none => cases (exec_setlocal_of_dscan_none hscan id).symm.trans h; exact ⟨.inr rfl, rfl⟩
  | some k => cases (exec_setlocal_of_dscan_some hscan id).symm.trans h; exact ⟨.inl rfl, rfl⟩

/-- SETPEER keeps `LOCAL_ID`, and keeps `PEER_ID` or writes its operand there (R121). -/
theorem identifiers_of_exec_setpeer {id : Byte} {s t : State} (h : exec (.setpeer id) s = .next t) :
    t.localId = s.localId ∧ (t.peerId = s.peerId ∨ t.peerId = some id) := by
  cases hscan : dscan s.rxbuf with
  | none => cases (exec_setpeer_of_dscan_none hscan id).symm.trans h; exact ⟨rfl, .inr rfl⟩
  | some k => cases (exec_setpeer_of_dscan_some hscan id).symm.trans h; exact ⟨rfl, .inl rfl⟩

/-- An identifier changes only by its own command, which writes its operand there (R22, R161). -/
theorem exec_identifiers_cases {i : Instr} {s t : State} (h : exec i s = .next t) :
    (t.localId = s.localId ∨ ∃ id, i = .setlocal id ∧ t.localId = some id) ∧
    (t.peerId = s.peerId ∨ ∃ id, i = .setpeer id ∧ t.peerId = some id) := by
  cases i with
  | setlocal id =>
    obtain ⟨hl, hp⟩ := identifiers_of_exec_setlocal h
    exact ⟨hl.imp_right fun hid => ⟨id, rfl, hid⟩, .inl hp⟩
  | setpeer id =>
    obtain ⟨hl, hp⟩ := identifiers_of_exec_setpeer h
    exact ⟨.inl hl, hp.imp_right fun hid => ⟨id, rfl, hid⟩⟩
  | openChan | closeChan | send | poll | b2b | bits2b | stuff | unstuff | xorsum | dscan | encode | decode | serialize
  | frame => exact (identifiers_eq_of_exec rfl rfl h).imp .inl .inl

/-- In a step an identifier changes only where the oldest input is its own command, which writes its operand there. -/
theorem step_identifiers_cases {s t : State} (h : step s = .next t) :
    (t.localId = s.localId ∨
      ∃ x rest id, s.input = x :: rest ∧ decode x = .ok (.setlocal id) ∧ t.localId = some id) ∧
    (t.peerId = s.peerId ∨
      ∃ x rest id, s.input = x :: rest ∧ decode x = .ok (.setpeer id) ∧ t.peerId = some id) := by
  obtain ⟨-, rfl⟩ | ⟨x, rest, hs, ⟨e, -, rfl⟩ | ⟨i, hd, hexec⟩⟩ := step_cases h
  · exact ⟨.inl rfl, .inl rfl⟩
  · exact ⟨.inl rfl, .inl rfl⟩
  · exact (exec_identifiers_cases hexec).imp
      (.imp_right fun ⟨id, hi, hid⟩ => ⟨x, rest, id, hs, hi ▸ hd, hid⟩)
      (.imp_right fun ⟨id, hi, hid⟩ => ⟨x, rest, id, hs, hi ▸ hd, hid⟩)

/-- Where SETLOCAL and SETPEER answer `Ok` they wrote, and an empty buffer holds no delimiter to refuse them for (R120,
R121). -/
theorem exec_set_identifiers (v : Byte) (s : State) :
    ∃ t u, exec (.setlocal v) s = .next t ∧ exec (.setpeer v) s = .next u ∧
      (t.reply = some ⟨.ok, .none⟩ → t.localId = some v) ∧ (u.reply = some ⟨.ok, .none⟩ → u.peerId = some v) ∧
      (s.rxbuf = [] → t.reply = some ⟨.ok, .none⟩ ∧ u.reply = some ⟨.ok, .none⟩) := by
  cases hscan : dscan s.rxbuf with
  | none =>
    exact ⟨_, _, exec_setlocal_of_dscan_none hscan v, exec_setpeer_of_dscan_none hscan v, fun _ => rfl, fun _ => rfl,
      fun _ => ⟨rfl, rfl⟩⟩
  | some k =>
    refine ⟨_, _, exec_setlocal_of_dscan_some hscan v, exec_setpeer_of_dscan_some hscan v, nofun, nofun, fun hempty => ?_⟩
    rw [hempty] at hscan
    cases hscan

end Sys2Proof.Machine
end

section
/-! The statements of spec/70_reset_and_hazards.md about reset (R160) and the identifiers (R161). -/

namespace Sys2Proof.Proofs

open Sys2Proof.Machine

/-- Settles O8: a step keeps an identifier or runs its own command, which writes `some v`; the rest is what SETLOCAL and
SETPEER answer, and R129's refusals. -/
theorem identifiersHoldNoValueUntilWritten : Obligations.IdentifiersHoldNoValueUntilWritten := by
  refine ⟨rfl, rfl, fun s t h => ?_, exec_set_identifiers, fun s =>
    ⟨fun h => exec_decode_of_none h, fun h => exec_poll_of_none h, fun h => exec_send_of_none h⟩⟩
  obtain ⟨hl, hp⟩ := step_identifiers_cases h
  refine ⟨fun hsome => ?_, fun hsome => ?_, fun hnone hsome => ?_, fun hnone hsome => ?_⟩
  · obtain hkept | ⟨x, rest, id, -, -, hid⟩ := hl
    · rwa [hkept]
    · simp [hid]
  · obtain hkept | ⟨x, rest, id, -, -, hid⟩ := hp
    · rwa [hkept]
    · simp [hid]
  · exact hl.resolve_left fun hkept => hsome (hkept.trans hnone)
  · exact hp.resolve_left fun hkept => hsome (hkept.trans hnone)

/-- Settles O7, by the value of each field of the reset state. -/
theorem resetLeavesTheBufferEmpty : Obligations.ResetLeavesTheBufferEmpty :=
  ⟨rfl, rfl, rfl⟩

end Sys2Proof.Proofs
end

section
/-! The streaming forms of STUFF and UNSTUFF (40_bitcodec.md R75, R76): the counter is the length of the beginning of
`SPAT` just read, so a stream goes on as the whole scan does behind those bits. -/

namespace Sys2Proof.Machine

/-- Behind a beginning of `SPAT`, one more bit leaves a shorter or longer one behind some copied bits (R75). -/
theorem spatTake_concat {k : Nat} (hk : k < 7) (b : Bit) :
    (Config.spat.take k ++ [b]).take (k + 1 - matchStep k b) ++ Config.spat.take (matchStep k b) =
      Config.spat.take k ++ [b] := by
  interval_cases k <;> cases b <;> rfl

theorem matchStep_eq_seven_iff {k : Nat} (hk : k < 7) (b : Bit) : matchStep k b = 7 ↔ k = 6 ∧ b = true := by
  interval_cases k <;> cases b <;> decide

/-- STUFF copies the bits that no longer belong to a beginning of `SPAT` (R72, R75). -/
theorem stuff_spatTake_cons {k : Nat} (hk : k < 7) (b : Bit) (rest : Bits) :
    stuff (Config.spat.take k ++ b :: rest) =
      (Config.spat.take k ++ [b]).take (k + 1 - matchStep k b) ++ stuff (Config.spat.take (matchStep k b) ++ rest) := by
  interval_cases k <;> cases b <;> rfl

/-- UNSTUFF copies the bits that no longer belong to a beginning of `SREP` (R73, R76). -/
theorem unstuff_spatTake_cons {k : Nat} (hk : k < 7) (b : Bit) (rest : Bits) :
    unstuff (Config.spat.take k ++ b :: rest) =
      (Config.spat.take k ++ [b]).take (k + 1 - matchStep k b) ++
        unstuff (Config.spat.take (matchStep k b) ++ rest) := by
  interval_cases k <;> cases b <;> rfl

/-- The streaming stuffer with counter `k` gives what STUFF gives behind the first `k` bits of `SPAT` (R75). -/
theorem stuff_spatTake_append {k : Nat} (hk : k < 7) (s : Bits) :
    stuff (Config.spat.take k ++ s) = Config.spat.take k ++ stuffStream k s := by
  induction s generalizing k with
  | nil => interval_cases k <;> rfl
  | cons b rest ih =>
    by_cases hm : matchStep k b = 7
    · obtain ⟨rfl, rfl⟩ := (matchStep_eq_seven_iff hk b).mp hm
      exact congrArg (Config.srep ++ ·) (ih (k := 0) (by decide))
    · have hlt : matchStep k b < 7 := by have := matchStep_le_seven k b hk; omega
      rw [stuff_spatTake_cons hk, ih hlt, ← List.append_assoc, spatTake_concat hk, List.append_assoc, stuffStream,
        if_neg hm, List.singleton_append]

/-- The streaming unstuffer with counter `k` gives what UNSTUFF gives behind the first `k` bits of `SREP` (R76). -/
theorem unstuff_spatTake_append {k : Nat} (hk : k ≤ 7) (s : Bits) :
    unstuff (Config.spat.take k ++ s) = Config.spat.take k ++ unstuffStream k s := by
  induction s generalizing k with
  | nil => interval_cases k <;> rfl
  | cons b rest ih =>
    obtain hlt | rfl := Nat.lt_or_eq_of_le hk
    · rw [unstuff_spatTake_cons hlt, ih (matchStep_le_seven k b hlt), ← List.append_assoc, spatTake_concat hlt,
        List.append_assoc, unstuffStream, if_neg hlt.ne, List.singleton_append]
    · cases b with
      | true => exact congrArg (Config.spat ++ ·) (ih (k := 0) (by decide))
      | false => exact congrArg ([true, false] ++ ·) (ih (k := 6) (by decide))

/-- The streaming stuffer gives what STUFF gives (R75). -/
theorem stuffStream_zero (s : Bits) : stuffStream 0 s = stuff s :=
  (stuff_spatTake_append (k := 0) (by decide) s).symm

/-- The streaming unstuffer gives what UNSTUFF gives (R76). -/
theorem unstuffStream_zero (s : Bits) : unstuffStream 0 s = unstuff s :=
  (unstuff_spatTake_append (k := 0) (by decide) s).symm

end Sys2Proof.Machine
end

section
/-! UNSTUFF of a growing bitstring (40_bitcodec.md R77): each bit adds one bit or none, and drops are at least eight bits
apart. -/

namespace Sys2Proof.Machine

/-- One more bit at the end adds at most one bit to what the streaming unstuffer gives, and changes none of it (R77). -/
theorem unstuffStream_concat (k : Nat) (s : Bits) (b : Bit) :
    ∃ u, unstuffStream k (s ++ [b]) = unstuffStream k s ++ u ∧ u.length ≤ 1 := by
  induction s generalizing k with
  | nil =>
    refine ⟨unstuffStream k [b], rfl, ?_⟩
    simp only [unstuffStream]
    split_ifs <;> simp
  | cons a rest ih =>
    simp only [List.cons_append, unstuffStream]
    split_ifs
    · exact ih 0
    · obtain ⟨u, hu, hle⟩ := ih 6
      exact ⟨u, by rw [hu, List.cons_append], hle⟩
    · obtain ⟨u, hu, hle⟩ := ih (matchStep k a)
      exact ⟨u, by rw [hu, List.cons_append], hle⟩

/-- UNSTUFF of one bit more adds at most one bit and changes none (R77 a, b). -/
theorem unstuff_take_succ {t : Bits} {w : Nat} (h : w < t.length) :
    ∃ u, unstuff (t.take (w + 1)) = unstuff (t.take w) ++ u ∧ u.length ≤ 1 := by
  rw [← unstuffStream_zero, ← unstuffStream_zero, List.take_succ_eq_append_getElem h]
  exact unstuffStream_concat 0 _ _

/-- UNSTUFF of a beginning of a bitstring is a beginning of UNSTUFF of it (R77 b). -/
theorem unstuff_prefix_append (s t : Bits) : unstuff s <+: unstuff (s ++ t) := by
  induction t generalizing s with
  | nil => rw [List.append_nil]
  | cons b rest ih =>
    obtain ⟨u, hu, -⟩ := unstuffStream_concat 0 s b
    rw [unstuffStream_zero, unstuffStream_zero] at hu
    have hstep : unstuff s <+: unstuff (s ++ [b]) := ⟨u, hu.symm⟩
    rw [List.append_cons]
    exact hstep.trans (ih (s ++ [b]))

/-- UNSTUFF drops at most one bit in eight (R73). -/
theorem seven_mul_length_le_unstuff (s : Bits) : 7 * s.length ≤ 8 * (unstuff s).length := by
  induction s using unstuff.induct with
  | case1 rest ih =>
    rw [unstuff]
    simp only [List.length_cons, List.length_append, Config.spat, List.length_nil]
    omega
  | case2 b rest hne ih =>
    rw [unstuff.eq_2 b rest hne, List.length_cons, List.length_cons]
    omega
  | case3 => exact Nat.le_refl 0

end Sys2Proof.Machine
end

section
/-! RESOLVE's window (42_framecodec.md R93): it is there once enough bits unstuff, later bits do not move it, and the
streaming form finds it. -/

namespace Sys2Proof.Machine

/-- UNSTUFF's length passes every number on the way up (40_bitcodec.md R77 a). -/
theorem exists_take_unstuff_length_eq {s : Bits} {n : Nat} (h : n ≤ (unstuff s).length) :
    ∃ w, w ≤ s.length ∧ (unstuff (s.take w)).length = n := by
  have hup : ∀ w, w ≤ s.length → n ≤ (unstuff (s.take w)).length →
      ∃ v, v ≤ w ∧ (unstuff (s.take v)).length = n := by
    intro w
    induction w with
    | zero => exact fun _ hn => ⟨0, Nat.le_refl 0, (Nat.le_zero.mp hn).symm⟩
    | succ w ih =>
      intro hw hn
      by_cases hlow : n ≤ (unstuff (s.take w)).length
      · obtain ⟨v, hv, hlen⟩ := ih (by omega) hlow
        exact ⟨v, Nat.le_succ_of_le hv, hlen⟩
      · obtain ⟨u, hu, hle⟩ := unstuff_take_succ hw
        have hlen : (unstuff (s.take (w + 1))).length = (unstuff (s.take w)).length + u.length := by
          rw [hu, List.length_append]
        exact ⟨w + 1, Nat.le_refl _, by omega⟩
  exact hup s.length (Nat.le_refl _) (by rwa [List.take_length])

/-- RESOLVE fails exactly while the whole candidate unstuffs to too few bits (R93). -/
theorem resolve_eq_none_iff_lt {cap : Nat} {cand : Bits} :
    resolve cap cand = none ↔ (unstuff cand).length < Config.frameBits cap := by
  rw [resolve_eq_none_iff]
  constructor
  · intro hno
    refine not_le.mp fun hle => ?_
    obtain ⟨w, hw, hlen⟩ := exists_take_unstuff_length_eq hle
    exact hno w hw hlen
  · intro hlt w _
    rw [← List.take_append_drop w cand] at hlt
    exact ((unstuff_prefix_append _ _).length_le.trans_lt hlt).ne

/-- Bits behind a resolved window do not move it (R93). -/
theorem resolve_append {cap w : Nat} {cand : Bits} (h : resolve cap cand = some w) (t : Bits) :
    resolve cap (cand ++ t) = some w := by
  obtain ⟨hw, hlen, hleast⟩ := resolve_eq_some_iff.mp h
  refine resolve_eq_some_iff.mpr ⟨?_, ?_, fun v hv => ?_⟩
  · rw [List.length_append]
    omega
  · rwa [List.take_append_of_le_length hw]
  · rw [List.take_append_of_le_length (by omega)]
    exact hleast v hv

/-- The streaming RESOLVE, `need` bits short and with counter `k`, finds the smallest window whose bits the streaming
unstuffer completes them with (R93). -/
theorem resolveStream_eq_find? (need k w : Nat) (cand : Bits) :
    resolveStream need k w cand =
      ((List.range (cand.length + 1)).find? fun v => (unstuffStream k (cand.take v)).length == need).map (w + ·) := by
  induction cand generalizing need k w with
  | nil => cases need <;> rfl
  | cons b rest ih =>
    cases need with
    | zero => simp [resolveStream, List.range_succ_eq_map, unstuffStream]
    | succ need =>
      have hshift : (fun v => w + (v + 1)) = (w + 1 + ·) := by funext v; omega
      have hempty : ((unstuffStream k ((b :: rest).take 0)).length == need + 1) = false := rfl
      rw [List.length_cons, List.range_succ_eq_map, List.find?_cons, hempty, List.find?_map, Option.map_map,
        resolveStream]
      simp only [Function.comp_def, Nat.succ_eq_add_one, List.take_succ_cons, unstuffStream, hshift]
      split_ifs
      · exact ih (need + 1) 0 (w + 1)
      · simpa using ih need 6 (w + 1)
      · simpa using ih need (matchStep k b) (w + 1)

/-- The streaming RESOLVE gives the window RESOLVE gives (R93). -/
theorem resolveStream_eq_resolve (cap : Nat) (cand : Bits) :
    resolveStream (Config.frameBits cap) 0 0 cand = resolve cap cand := by
  simp only [resolveStream_eq_find?, unstuffStream_zero, Nat.zero_add, Option.map_id', resolve]

end Sys2Proof.Machine
end

section
/-! The window of a frame, exactly (42_framecodec.md R94): RESOLVE stops at the end of the stuffed image, or one bit before
it where the image ends in a stuff bit. -/

namespace Sys2Proof.Machine

/-- The trailing stuff bit of a stuffed image, which RESOLVE leaves behind, or nothing (R94). -/
def trailingStuffBit (s : Bits) : Bits := if endsInMatch s then [true] else []

theorem trailingStuffBit_length (s : Bits) : (trailingStuffBit s).length = if endsInMatch s then 1 else 0 := by
  unfold trailingStuffBit
  split_ifs <;> rfl

theorem trailingStuffBit_spat_append {rest : Bits} (h : rest ≠ []) :
    trailingStuffBit (Config.spat ++ rest) = trailingStuffBit rest := by
  cases rest with
  | nil => exact absurd rfl h
  | cons b rest => rfl

theorem trailingStuffBit_cons_of_ne {b : Bit} {rest : Bits} (h : (b :: rest).take 7 ≠ Config.spat) :
    trailingStuffBit (b :: rest) = trailingStuffBit rest := by
  rw [trailingStuffBit, trailingStuffBit, endsInMatch.eq_2 b rest fun r hb hr => h (by subst hb hr; rfl)]

/-- Where STUFF copies a bit, UNSTUFF copies it too, however much of the output follows it (R72, R73). -/
theorem unstuff_cons_of_prefix_stuff {b : Bit} {rest p : Bits} (h : (b :: rest).take 7 ≠ Config.spat)
    (hp : p <+: stuff rest) : unstuff (b :: p) = b :: unstuff p := by
  refine unstuff_cons_of_ne fun hs => take_cons_stuff_ne_srep h ?_
  have hpre : (b :: p).take 8 <+: b :: stuff rest := (List.take_prefix _ _).trans ((List.prefix_cons_inj b).mpr hp)
  rw [hs] at hpre
  exact (List.prefix_iff_eq_take.mp hpre).symm

/-- STUFF's output ends in the trailing stuff bit (R94); without that bit it still unstuffs to the whole input, and no
shorter beginning of it does. -/
theorem exists_stuff_eq_append_trailingStuffBit (s : Bits) :
    ∃ x, stuff s = x ++ trailingStuffBit s ∧ unstuff x = s ∧
      ∀ v, v < x.length → (unstuff (x.take v)).length < s.length := by
  induction s using stuffScan_induction with
  | nil => exact ⟨[], rfl, rfl, nofun⟩
  | spat rest ih =>
    by_cases hrest : rest = []
    · subst hrest
      refine ⟨Config.spat, rfl, rfl, fun v hv => ?_⟩
      exact (length_unstuff_le _).trans_lt ((List.length_take_le v _).trans_lt hv)
    · obtain ⟨x, hx, hun, hshort⟩ := ih
      refine ⟨Config.srep ++ x, ?_, by rw [unstuff_srep_append, hun], fun v hv => ?_⟩
      · rw [stuff_spat_append, hx, trailingStuffBit_spat_append hrest, List.append_assoc]
      · have hpos := List.length_pos_iff.mpr hrest
        rw [List.length_append] at hv ⊢
        by_cases hv8 : v < 8
        · have hle : (unstuff ((Config.srep ++ x).take v)).length ≤ v :=
            (length_unstuff_le _).trans (List.length_take_le v _)
          have hseven : Config.spat.length = 7 := rfl
          omega
        · obtain ⟨u, rfl⟩ := Nat.exists_eq_add_of_le (not_lt.mp hv8)
          rw [← show Config.srep.length = 8 from rfl, List.take_length_add_append, unstuff_srep_append,
            List.length_append]
          exact Nat.add_lt_add_left (hshort u (Nat.lt_of_add_lt_add_left hv)) _
  | copy b rest hne ih =>
    obtain ⟨x, hx, hun, hshort⟩ := ih
    have hpre : x <+: stuff rest := ⟨_, hx.symm⟩
    refine ⟨b :: x, ?_, by rw [unstuff_cons_of_prefix_stuff hne hpre, hun], fun v hv => ?_⟩
    · rw [stuff_cons_of_ne hne, hx, trailingStuffBit_cons_of_ne hne, List.cons_append]
    · cases v with
      | zero => exact Nat.succ_pos _
      | succ v =>
        rw [List.take_succ_cons, unstuff_cons_of_prefix_stuff hne ((List.take_prefix v x).trans hpre)]
        exact Nat.succ_lt_succ (hshort v (Nat.lt_of_succ_lt_succ hv))

end Sys2Proof.Machine
end

section
/-! DSCAN of a longer bitstring (41_scan_checksum.md R82, corner case e). -/

namespace Sys2Proof.Machine

/-- Eight bits that lie in a bitstring are the same eight bits of every extension. -/
theorem take_drop_append {s : Bits} {k : Nat} (h : k + 8 ≤ s.length) (t : Bits) :
    ((s ++ t).drop k).take 8 = (s.drop k).take 8 := by
  rw [List.drop_append_of_le_length (by omega), List.take_append_of_le_length (by rw [List.length_drop]; omega)]

/-- Appended bits do not move the first delimiter (R82 e). -/
theorem dscan_append {s : Bits} {k : Nat} (h : dscan s = some k) (t : Bits) : dscan (s ++ t) = some k := by
  have hk := dscan_add_eight_le h
  obtain ⟨hdelim, hleft⟩ := dscan_eq_some_iff.mp h
  refine dscan_eq_some_iff.mpr ⟨by rwa [take_drop_append hk], fun j hj => ?_⟩
  rw [take_drop_append (by omega)]
  exact hleft j hj

/-- A delimiter that only appended bits bring ends past the old end (R82 e). -/
theorem length_lt_of_dscan_append {s t : Bits} {k : Nat} (hs : dscan s = none) (h : dscan (s ++ t) = some k) :
    s.length < k + 8 := by
  refine not_le.mp fun hle => dscan_eq_none_iff.mp hs k ?_
  rw [← take_drop_append hle t]
  exact take_drop_of_dscan h

/-- A beginning of a bitstring without a delimiter has none. -/
theorem dscan_eq_none_of_prefix {s t : Bits} (h : s <+: t) (ht : dscan t = none) : dscan s = none := by
  obtain ⟨u, rfl⟩ := h
  refine Option.eq_none_iff_forall_ne_some.mpr fun k hk => ?_
  rw [dscan_append hk u] at ht
  cases ht

/-- Fewer than eight bits hold no delimiter. -/
theorem dscan_of_length_lt {s : Bits} (h : s.length < 8) : dscan s = none :=
  Option.eq_none_iff_forall_ne_some.mpr fun k hk => by
    have hle := dscan_add_eight_le hk
    omega

end Sys2Proof.Machine
end

section
/-! A frame as a parse sees it (42_framecodec.md R94 to R99): the front it consumes, and the tail of the wire image that
stays behind. -/

namespace Sys2Proof.Machine

/-- The bits of an encoded frame that a parse consumes: all but a trailing stuff bit (R94, R95). -/
def frameFront (bytes : Bytes) : Bits :=
  (encodedFrame bytes).take ((encodedFrame bytes).length - (trailingStuffBit (b2b bytes)).length)

/-- What a parse leaves of a wire image: a trailing stuff bit, and the pad zeros (R99). -/
def wireTail (bytes : Bytes) : Bits :=
  trailingStuffBit (b2b bytes) ++ List.replicate ((8 - stuffCount (b2b bytes) % 8) % 8) false

/-- Behind the delimiter the front is the smallest window that unstuffs to the image (R93, R94). -/
theorem exists_frameFront_eq (bytes : Bytes) :
    ∃ x, frameFront bytes = Config.delim ++ x ∧ encodedFrame bytes = frameFront bytes ++ trailingStuffBit (b2b bytes) ∧
      unstuff x = b2b bytes ∧ ∀ v, v < x.length → (unstuff (x.take v)).length < (b2b bytes).length := by
  obtain ⟨x, hx, hun, hshort⟩ := exists_stuff_eq_append_trailingStuffBit (b2b bytes)
  have henc : encodedFrame bytes = (Config.delim ++ x) ++ trailingStuffBit (b2b bytes) := by
    rw [encodedFrame, hx, List.append_assoc]
  have hfront : frameFront bytes = Config.delim ++ x := by
    rw [frameFront, henc]
    exact List.take_left' (by rw [List.length_append (as := _ ++ _), Nat.add_sub_cancel])
  exact ⟨x, hfront, hfront ▸ henc, hun, hshort⟩

theorem encodedFrame_eq_frameFront_append (bytes : Bytes) :
    encodedFrame bytes = frameFront bytes ++ trailingStuffBit (b2b bytes) :=
  have ⟨_, _, henc, _⟩ := exists_frameFront_eq bytes
  henc

/-- The consumed count leaves out a trailing stuff bit (R94). -/
theorem frameFront_length_add (bytes : Bytes) :
    (frameFront bytes).length + (if endsInMatch (b2b bytes) then 1 else 0) = (encodedFrame bytes).length := by
  rw [encodedFrame_eq_frameFront_append bytes, List.length_append, trailingStuffBit_length]

/-- The bits of a wire image are the front a parse consumes and the tail it leaves (R99). -/
theorem b2b_bits2b_encodedFrame (bytes : Bytes) :
    b2b (bits2b (encodedFrame bytes)) = frameFront bytes ++ wireTail bytes := by
  have hmod : (encodedFrame bytes).length % 8 = stuffCount (b2b bytes) % 8 := by
    rw [encodedFrame_length]
    omega
  rw [b2b_bits2b, hmod, wireTail, ← List.append_assoc, ← encodedFrame_eq_frameFront_append]

/-- At most a stuff bit and seven pad zeros stay (R99). -/
theorem wireTail_length_le (bytes : Bytes) : (wireTail bytes).length ≤ 8 := by
  rw [wireTail, List.length_append, trailingStuffBit_length, List.length_replicate]
  split_ifs <;> omega

/-- What a frame leaves holds no delimiter. -/
theorem dscan_wireTail (bytes : Bytes) : dscan (wireTail bytes) = none := by
  have hpad : ∀ p, p < 8 → ∀ b : Bool, dscan ((if b then [true] else []) ++ List.replicate p false) = none := by decide
  exact hpad _ (Nat.mod_lt _ (by decide)) _

/-- Only a trailing stuff bit with exactly one pad bit brings the next frame's delimiter forward
(70_reset_and_hazards.md R170). -/
theorem dscan_wireTail_delim {bytes : Bytes}
    (h : ¬ (endsInMatch (b2b bytes) = true ∧ stuffCount (b2b bytes) % 8 = 7)) :
    dscan (wireTail bytes ++ Config.delim) = some (wireTail bytes).length := by
  have hpad : ∀ m, m < 8 → ∀ b : Bool, ¬ (b = true ∧ m = 7) →
      dscan (((if b then [true] else []) ++ List.replicate ((8 - m) % 8) false) ++ Config.delim) =
        some ((if b then [true] else []) ++ List.replicate ((8 - m) % 8) false).length := by decide
  exact hpad _ (Nat.mod_lt _ (by decide)) _ h

section
variable {cap : Nat} {bytes : Bytes} (hbytes : bytes.length = Config.frameBytes cap) {before : Bits}
  (hbefore : dscan (before ++ Config.delim) = some before.length)
include hbytes hbefore

/-- DECODE of a frame's front judges the frame's own bytes, whatever harmless bits precede it and whatever follows it (R96,
R97). -/
theorem parseFrame_append_frameFront (id : Byte) (rest : Bits) :
    parseFrame cap id (before ++ (frameFront bytes ++ rest)) =
      judgeFrame cap id (before.length + (frameFront bytes).length) bytes := by
  obtain ⟨x, hfront, -, hun, hshort⟩ := exists_frameFront_eq bytes
  have hbits : (b2b bytes).length = Config.frameBits cap := by rw [b2b_length, hbytes, Config.frameBits]
  have hraw : before ++ (frameFront bytes ++ rest) = (before ++ Config.delim) ++ (x ++ rest) := by
    simp only [hfront, List.append_assoc]
  have hdrop : (before ++ (frameFront bytes ++ rest)).drop (before.length + 8) = x ++ rest := by
    rw [hraw]
    exact List.drop_left' (List.length_append ..)
  have hresolve : resolve cap (x ++ rest) = some x.length := by
    refine resolve_append (resolve_eq_some_iff.mpr ⟨Nat.le_refl _, ?_, fun v hv => ?_⟩) rest
    · rw [List.take_length, hun, hbits]
    · exact (hbits ▸ hshort v hv).ne
  have hlen : before.length + (frameFront bytes).length = before.length + 8 + x.length := by
    rw [hfront, List.length_append, Nat.add_assoc]
    rfl
  rw [parseFrame_of_resolve_some (hraw ▸ dscan_append hbefore _) (hdrop ▸ hresolve), hdrop, List.take_left, hun,
    bits2b_b2b, hlen]

/-- DECODE of a beginning of a frame's front that holds the delimiter needs more data (R97 d). -/
theorem parseFrame_append_take_frameFront (id : Byte) {j : Nat} (h8 : 8 ≤ j) (hj : j < (frameFront bytes).length) :
    parseFrame cap id (before ++ (frameFront bytes).take j) = .needMoreData := by
  obtain ⟨x, hfront, -, -, hshort⟩ := exists_frameFront_eq bytes
  have hbits : (b2b bytes).length = Config.frameBits cap := by rw [b2b_length, hbytes, Config.frameBits]
  obtain ⟨v, rfl⟩ := Nat.exists_eq_add_of_le h8
  have hdelim : Config.delim.length = 8 := rfl
  have hraw : before ++ (frameFront bytes).take (8 + v) = (before ++ Config.delim) ++ x.take v := by
    rw [hfront, ← hdelim, List.take_length_add_append, List.append_assoc]
  have hv : v < x.length := by
    rw [hfront, List.length_append] at hj
    omega
  rw [hraw]
  refine parseFrame_of_resolve_none (dscan_append hbefore _) ?_ id
  rw [List.drop_left' (by rw [List.length_append, hdelim]), resolve_eq_none_iff_lt, ← hbits]
  exact hshort v hv

end

end Sys2Proof.Machine
end

section
/-! POLL of a frame (43_receive.md R110, R112), for every `CAP`. -/

namespace Sys2Proof.Machine

/-- POLL with `LOCAL_ID` written, in an unbounded buffer, for every `CAP`: the whole next state (R110). -/
theorem pollWith_eq_next {cap : Nat} {s : State} {id : Byte} (h : s.localId = some id) (b : Bytes) :
    pollWith cap none b s = .next { s with
      rxbuf := pollRest (parseFrame cap id (s.rxbuf ++ b2b b)) (s.rxbuf ++ b2b b)
      reply := some (pollReply (parseFrame cap id (s.rxbuf ++ b2b b))) } :=
  (pollWith_of_some h b).trans (applyParsed_of_consumed_le fun _ hc => consumedOf_parseFrame_le hc)

/-- A judged window is removed from the buffer, whatever the judgement (R110, R112). -/
theorem pollRest_judgeFrame (cap : Nat) (id : Byte) (c : Nat) (bytes : Bytes) (buf : Bits) :
    pollRest (judgeFrame cap id c bytes) buf = buf.drop c := by
  obtain h | h | h | ⟨src, p, h, -⟩ := judgeFrame_cases cap id c bytes <;> rw [h] <;> rfl

/-- POLL where the buffer then begins with a whole frame, behind harmless bits: the frame is judged and every bit behind it
stays (R112). -/
theorem pollWith_append_frameFront {cap : Nat} {bytes : Bytes} (hbytes : bytes.length = Config.frameBytes cap)
    {before : Bits} (hbefore : dscan (before ++ Config.delim) = some before.length) {s : State} {id : Byte}
    (hid : s.localId = some id) {b : Bytes} {rest : Bits} (hbuf : s.rxbuf ++ b2b b = before ++ (frameFront bytes ++ rest)) :
    pollWith cap none b s = .next { s with
      rxbuf := rest
      reply := some (pollReply (judgeFrame cap id (before.length + (frameFront bytes).length) bytes)) } := by
  have hdrop : (before ++ (frameFront bytes ++ rest)).drop (before.length + (frameFront bytes).length) = rest := by
    rw [← List.append_assoc]
    exact List.drop_left' (List.length_append ..)
  rw [pollWith_eq_next hid, hbuf, parseFrame_append_frameFront hbytes hbefore, pollRest_judgeFrame, hdrop]

section
variable {cap : Nat} {bytes : Bytes} (hbytes : bytes.length = Config.frameBytes cap) {s : State} {id : Byte}
  (hid : s.localId = some id) (hbuf : s.rxbuf = [])
include hbytes hid hbuf

/-- POLL of a wire image and more bytes, from an empty buffer: one frame is judged, and its tail and the further bits stay
(R112). -/
theorem pollWith_wireImage_append (more : Bytes) :
    pollWith cap none (bits2b (encodedFrame bytes) ++ more) s = .next { s with
      rxbuf := wireTail bytes ++ b2b more
      reply := some (pollReply (judgeFrame cap id (frameFront bytes).length bytes)) } := by
  have hpoll := pollWith_append_frameFront (before := []) hbytes rfl hid (b := bits2b (encodedFrame bytes) ++ more)
    (by rw [hbuf, b2b_append, b2b_bits2b_encodedFrame, List.append_assoc])
  rwa [List.length_nil, Nat.zero_add] at hpoll

/-- POLL of a wire image from an empty buffer. -/
theorem pollWith_wireImage :
    pollWith cap none (bits2b (encodedFrame bytes)) s = .next { s with
      rxbuf := wireTail bytes
      reply := some (pollReply (judgeFrame cap id (frameFront bytes).length bytes)) } := by
  simpa using pollWith_wireImage_append hbytes hid hbuf []

end

/-- POLL's answer on a legal frame: the payload, or `NotAddressedToMe` (R110). -/
theorem pollReply_judgeFrame_protectedBytes {cap : Nat} {payload : Bytes} (hcap : cap ≤ 255)
    (hle : payload.length ≤ cap) (id dst src : Byte) (c : Nat) :
    pollReply (judgeFrame cap id c (protectedBytes cap dst src payload)) =
      if dst = id then ⟨.ok, .poll (.payload payload)⟩ else ⟨.notAddressedToMe, .poll .empty⟩ := by
  rw [judgeFrame_protectedBytes hcap hle]
  split_ifs <;> rfl

/-- POLL's answer on a window's bytes, by its fields: the first failing test names the outcome (R110, 42_framecodec.md
R96). -/
theorem pollReply_judgeFrame (cap : Nat) (id : Byte) (c : Nat) (dst src len : Byte) (rest : Bytes) :
    pollReply (judgeFrame cap id c (dst :: src :: len :: rest)) =
      if xorsum (dst :: src :: len :: rest) ≠ 0 then ⟨.checksumMismatch, .poll .empty⟩
      else if dst ≠ id then ⟨.notAddressedToMe, .poll .empty⟩
      else if cap < len.toNat then ⟨.lengthOutOfRange, .poll .empty⟩
      else ⟨.ok, .poll (.payload (rest.take len.toNat))⟩ := by
  have hdst : fieldByte (dst :: src :: len :: rest) 0 = dst := rfl
  have hlen : fieldByte (dst :: src :: len :: rest) 2 = len := rfl
  rw [judgeFrame, hdst, hlen]
  split_ifs <;> rfl

end Sys2Proof.Machine
end

section
/-! What SEND writes (44_control_send.md R126, R127). -/

namespace Sys2Proof.Machine

/-- The bytes of a frame are a wire image: `0x55` first, and as many bytes as R92 allows (R127 b). -/
theorem wireImage_bits2b_encodedFrame {bytes : Bytes} (h : bytes.length = Config.frameBytes Config.cap) :
    WireImage (bits2b (encodedFrame bytes)) := by
  have hbits : (b2b bytes).length = 152 := by rw [b2b_length, h]; rfl
  have hcount := seven_mul_stuffCount_le (b2b bytes)
  have hlen : (bits2b (encodedFrame bytes)).length = (160 + stuffCount (b2b bytes) + 7) / 8 := by
    rw [bits2b_length, encodedFrame_length, h]
    rfl
  have hmin : Config.cap + 5 = 20 := rfl
  have hmax : Config.cap + 5 + (Config.maxStuffBits Config.cap + 7) / 8 = 23 := rfl
  exact ⟨head?_bits2b_encodedFrame bytes, by omega, by omega⟩

/-- SEND of a payload of at most `CAP` bytes, at every `CAP` (R126). -/
theorem sendWith_of_le {cap : Nat} {payload : Bytes} {s : State} {l p : Byte} (hl : s.localId = some l)
    (hp : s.peerId = some p) (hle : payload.length ≤ cap) :
    sendWith cap payload s = .next { s with
      chan := s.chan ++ [bits2b (encodedFrame (protectedBytes cap p l payload))], reply := some ⟨.ok, .none⟩ } := by
  simp only [sendWith, hl, hp, serializeFrame, encodeFrame_of_le hle, Option.map_some, chanWrite, answer]

end Sys2Proof.Machine
end

section
/-! The statements of spec/42_framecodec.md about a frame and its wire image read back (R97, R99), and of
spec/43_receive.md, spec/44_control_send.md and spec/70_reset_and_hazards.md about a POLL of it (R112, R127, R170). -/

namespace Sys2Proof.Proofs

open Sys2Proof.Machine

/-- Settles O44: the front of the frame is judged by its own bytes, and what follows it is the trailing stuff bit and the
bits behind. -/
theorem decodeRecoversAnEncodedFrame : Obligations.DecodeRecoversAnEncodedFrame := by
  intro dst src payload before e after s id hid he hbefore
  obtain ⟨hle, rfl⟩ := encodeFrame_eq_some.mp he
  have hlen := frameFront_length_add (protectedBytes Config.cap dst src payload)
  refine ⟨before.length + (frameFront (protectedBytes Config.cap dst src payload)).length, by omega, ?_⟩
  rw [exec_decode_of_some hid, encodedFrame_eq_frameFront_append, List.append_assoc, List.append_assoc,
    parseFrame_append_frameFront (protectedBytes_length Config.cap dst src payload hle) hbefore,
    judgeFrame_protectedBytes (by decide) hle]
  split_ifs <;> rfl

/-- Settles O46: what stands behind the consumed front is the wire tail. -/
theorem wireImageDecodesAndLeavesItsTail : Obligations.WireImageDecodesAndLeavesItsTail := by
  intro cap dst src payload w hcap hw
  obtain ⟨e, he, rfl⟩ := serializeFrame_eq_some.mp hw
  obtain ⟨hle, rfl⟩ := encodeFrame_eq_some.mp he
  have hparse := parseFrame_append_frameFront (before := []) (protectedBytes_length cap dst src payload hle) rfl dst
    (wireTail (protectedBytes cap dst src payload))
  rw [judgeFrame_protectedBytes hcap hle, if_pos rfl, List.nil_append, List.length_nil, Nat.zero_add] at hparse
  refine ⟨(frameFront (protectedBytes cap dst src payload)).length, _, rfl, ?_⟩
  rw [b2b_bits2b_encodedFrame, List.drop_left]
  exact ⟨hparse, by simp, wireTail_length_le _, rfl⟩

/-- Settles O54: the POLL consumes the front of the first frame and no more. -/
theorem oneFramePerPoll : Obligations.OneFramePerPoll := by
  intro dst src id payload w more s hid hbuf hw
  obtain ⟨e, he, rfl⟩ := serializeFrame_eq_some.mp hw
  obtain ⟨hle, rfl⟩ := encodeFrame_eq_some.mp he
  have hsplit := b2b_bits2b_encodedFrame (protectedBytes Config.cap dst src payload)
  have hlen := congrArg List.length hsplit
  rw [b2b_length, List.length_append] at hlen
  have htail := wireTail_length_le (protectedBytes Config.cap dst src payload)
  have hpoll := pollWith_wireImage_append (protectedBytes_length Config.cap dst src payload hle) hid hbuf more
  rw [pollReply_judgeFrame_protectedBytes (by decide) hle] at hpoll
  refine ⟨_, (frameFront (protectedBytes Config.cap dst src payload)).length, hpoll, by omega, ?_, by omega, rfl⟩
  rw [hsplit, List.drop_left]

/-- Settles O56: the tail of such a frame is its stuff bit and one pad bit, behind which `0x55` reads as a delimiter. -/
theorem trailingStuffBitHidesTheNextDelimiter : Obligations.TrailingStuffBitHidesTheNextDelimiter := by
  intro id src payload w s hid hbuf hw hends hcount
  obtain ⟨e, he, rfl⟩ := serializeFrame_eq_some.mp hw
  obtain ⟨hle, rfl⟩ := encodeFrame_eq_some.mp he
  have hpoll := pollWith_wireImage (protectedBytes_length Config.cap id src payload hle) hid hbuf
  rw [pollReply_judgeFrame_protectedBytes (by decide) hle, if_pos rfl] at hpoll
  have htail : wireTail (protectedBytes Config.cap id src payload) = [true, false] := by
    rw [wireTail, trailingStuffBit, if_pos hends, hcount]
    rfl
  exact ⟨_, hpoll, rfl, htail, fun rest => htail ▸ dscan_of_take rfl⟩

/-- Settles O21: SEND writes the wire image of a legal frame, and POLL of a wire image delivers its payload. -/
theorem sentPayloadIsReceived : Obligations.SentPayloadIsReceived := by
  intro a b payload d l hle hp hl hid hbuf
  have he := encodeFrame_of_le (cap := Config.cap) hle d l
  obtain ⟨b', hb', hreply⟩ := exec_poll_wireImage hid hbuf (serializeFrame_eq_some.mpr ⟨_, he, rfl⟩)
  exact ⟨_, _, b', exec_send_of_eq_some hl hp he, rfl,
    wireImage_bits2b_encodedFrame (protectedBytes_length Config.cap d l payload hle), hb', hreply⟩

/-- Settles O59: a frame off the link is the POLL of its wire image by definition, and from an empty buffer its front is
judged field by field. -/
theorem frameOffTheLinkIsJudgedByItsFields : Obligations.FrameOffTheLinkIsJudgedByItsFields := by
  refine fun dst src len payload checksum s => ⟨⟨_, rfl, rfl⟩, fun h => exec_poll_of_none h _, fun id hlen hid hbuf => ?_⟩
  have hbytes : (dst :: src :: len :: (payload ++ [checksum])).length = Config.frameBytes Config.cap := by
    simp [hlen, Config.frameBytes, Config.cap]
  have hpoll := pollWith_wireImage hbytes hid hbuf
  rw [pollReply_judgeFrame] at hpoll
  refine ⟨wireTail (dst :: src :: len :: (payload ++ [checksum])), wireTail_length_le _, dscan_wireTail _,
    hpoll.trans ?_⟩
  have hcap : Config.cap = 15 := rfl
  rw [hcap]
  by_cases hlong : 15 < len.toNat
  · rw [if_pos hlong, if_pos hlong]
  · rw [List.take_append_of_le_length (by omega)]

/-- Settles O60: ENCODE, DECODE, SERIALIZE, SEND and POLL at any capacity, each on the frame the fields make; this block's
commands are the ones at 15 by definition. -/
theorem everyCapacityHasTheRoundTrip : Obligations.EveryCapacityHasTheRoundTrip := by
  refine ⟨fun cap dst src payload a b hcap hle hl hp hid => ?_, fun dst src bytes bits s => ⟨rfl, rfl, rfl, rfl, rfl⟩⟩
  have hbytes := protectedBytes_length cap dst src payload hle
  have hframe := encodeFrame_of_le hle dst src
  refine ⟨⟨encodedFrame (protectedBytes cap dst src payload), (frameFront (protectedBytes cap dst src payload)).length,
    ?encode, ?decode⟩, bits2b (encodedFrame (protectedBytes cap dst src payload)), ?serialize, sendWith_of_le hl hp hle,
    fun hbuf => ⟨_, pollWith_wireImage hbytes hid hbuf, ?poll⟩⟩
  case encode => simp only [encodeWith, hframe, answer]
  case decode =>
    have hparse := parseFrame_append_frameFront (before := []) hbytes rfl dst
      (trailingStuffBit (b2b (protectedBytes cap dst src payload)))
    rw [← encodedFrame_eq_frameFront_append, judgeFrame_protectedBytes hcap hle, if_pos rfl, List.length_nil,
      Nat.zero_add, List.nil_append] at hparse
    simp only [decodeWith, hid, hparse, decodeReply, answer]
  case serialize => simp only [serializeWith, serializeFrame, hframe, Option.map_some, answer]
  case poll => rw [pollReply_judgeFrame_protectedBytes hcap hle, if_pos rfl]

end Sys2Proof.Proofs
end

section
/-! A byte stream received in chunks (43_receive.md R117, R118): what is in the buffer and what is still to come are always
the tail of the frames already received and the wire images of the frames still to be received. -/

namespace Sys2Proof.Machine

/-- DSCAN of the bits behind an index that is not past the first delimiter. -/
theorem dscan_of_append_left {u s : Bits} {k : Nat} (h : dscan (u ++ s) = some (u.length + k)) : dscan s = some k := by
  obtain ⟨hdelim, hleft⟩ := dscan_eq_some_iff.mp h
  refine dscan_eq_some_iff.mpr ⟨?_, fun j hj => ?_⟩
  · rwa [List.drop_length_add_append] at hdelim
  · rw [← List.drop_length_add_append (l₁ := u)]
    exact hleft (u.length + j) (Nat.add_lt_add_left hj _)

/-- The end of a bitstring without a delimiter has none. -/
theorem dscan_eq_none_of_append_left {u s : Bits} (h : dscan (u ++ s) = none) : dscan s = none := by
  refine dscan_eq_none_iff.mpr fun k => ?_
  rw [← List.drop_length_add_append (l₁ := u)]
  exact dscan_eq_none_iff.mp h (u.length + k)

/-- What the peer writes for a frame (source and payload) to the engine `id` (44_control_send.md R126). -/
def wireOf (id : Byte) (f : Byte × Bytes) : Bytes := bits2b (encodedFrame (protectedBytes Config.cap id f.1 f.2))

theorem b2b_wireOf (id : Byte) (f : Byte × Bytes) :
    b2b (wireOf id f) = frameFront (protectedBytes Config.cap id f.1 f.2) ++
      wireTail (protectedBytes Config.cap id f.1 f.2) :=
  b2b_bits2b_encodedFrame _

theorem wireOf_ne_nil (id : Byte) (f : Byte × Bytes) : wireOf id f ≠ [] := fun h => by
  have hhead := head?_bits2b_encodedFrame (protectedBytes Config.cap id f.1 f.2)
  rw [← wireOf, h] at hhead
  cases hhead

/-- Every wire image has bytes, so there are no more frames than bits in a stream of them. -/
theorem length_le_b2b_wires (id : Byte) (frames : List (Byte × Bytes)) :
    frames.length ≤ (b2b (frames.map (wireOf id)).flatten).length := by
  induction frames with
  | nil => exact Nat.le_refl 0
  | cons f frames ih =>
    have hpos := List.length_pos_iff.mpr (wireOf_ne_nil id f)
    rw [List.map_cons, List.flatten_cons, b2b_append, List.length_append, b2b_length, List.length_cons]
    omega

/-- SERIALIZE gives the wire images of legal frames (42_framecodec.md R98). -/
theorem map_serializeFrame_eq_some {id : Byte} {frames : List (Byte × Bytes)} {wires : List Bytes}
    (h : frames.map (fun f => serializeFrame Config.cap id f.1 f.2) = wires.map some) :
    (∀ f ∈ frames, f.2.length ≤ Config.cap) ∧ wires = frames.map (wireOf id) := by
  induction frames generalizing wires with
  | nil => exact ⟨nofun, (List.map_eq_nil_iff.mp h.symm)⟩
  | cons f frames ih =>
    cases wires with
    | nil => cases h
    | cons w wires =>
      obtain ⟨hw, hrest⟩ := List.cons.inj h
      obtain ⟨e, he, rfl⟩ := serializeFrame_eq_some.mp hw
      obtain ⟨hle, rfl⟩ := encodeFrame_eq_some.mp he
      obtain ⟨hfits, rfl⟩ := ih hrest
      exact ⟨List.forall_mem_cons.mpr ⟨hle, hfits⟩, rfl⟩

/-- The hazard of R170: the frame ends in a stuff bit and has exactly one pad bit. -/
abbrev HidesNextDelimiter (id : Byte) (f : Byte × Bytes) : Prop :=
  endsInMatch (b2b (protectedBytes Config.cap id f.1 f.2)) = true ∧
    stuffCount (b2b (protectedBytes Config.cap id f.1 f.2)) % 8 = 7

/-- Bits without a delimiter that, if a frame follows, do not bring its delimiter forward. -/
def HarmlessBefore (frames : List (Byte × Bytes)) (tail : Bits) : Prop :=
  dscan tail = none ∧ (frames ≠ [] → dscan (tail ++ Config.delim) = some tail.length)

theorem HarmlessBefore.of_append_left {frames : List (Byte × Bytes)} {u tail : Bits}
    (h : HarmlessBefore frames (u ++ tail)) : HarmlessBefore frames tail := by
  refine ⟨dscan_eq_none_of_append_left h.1, fun hne => dscan_of_append_left (u := u) ?_⟩
  rw [← List.append_assoc, h.2 hne, List.length_append]

theorem HarmlessBefore.wireTail {id : Byte} {f : Byte × Bytes} {frames : List (Byte × Bytes)}
    (h : frames ≠ [] → ¬ HidesNextDelimiter id f) :
    HarmlessBefore frames (wireTail (protectedBytes Config.cap id f.1 f.2)) :=
  ⟨dscan_wireTail _, fun hne => dscan_wireTail_delim (h hne)⟩

/-- The engine `id` in the middle of a stream: `frames` are still to be delivered, and their wire images are the buffer and
the bytes `future` still to come, behind the harmless rest of what was received. -/
structure Receiving (id : Byte) (frames : List (Byte × Bytes)) (future : Bytes) (s : State) : Prop where
  localId : s.localId = some id
  fits : ∀ f ∈ frames, f.2.length ≤ Config.cap
  separate : ∀ f ∈ frames.dropLast, ¬ HidesNextDelimiter id f
  stream : ∃ tail, HarmlessBefore frames tail ∧
    s.rxbuf ++ b2b future = tail ++ b2b (frames.map (wireOf id)).flatten

/-- A POLL that leaves the identifiers, with the same frames to come, keeps the engine in its stream. -/
theorem Receiving.keep {id : Byte} {frames : List (Byte × Bytes)} {b future : Bytes} {s t : State}
    (h : Receiving id frames b s) (hid : t.localId = s.localId) (hstream : ∃ tail, HarmlessBefore frames tail ∧
      t.rxbuf ++ b2b future = tail ++ b2b (frames.map (wireOf id)).flatten) : Receiving id frames future t :=
  ⟨hid.trans h.localId, h.fits, h.separate, hstream⟩

section
variable {id : Byte} {frames : List (Byte × Bytes)} {c future : Bytes} {s : State}
  (h : Receiving id frames (c ++ future) s)
include h

/-- A POLL that brings no bit of the next frame wipes the rest of the last one. -/
theorem Receiving.poll_of_no_frame {u : Bits} (hharmless : HarmlessBefore frames (s.rxbuf ++ b2b c ++ u))
    (hstream : b2b future = u ++ b2b (frames.map (wireOf id)).flatten) :
    ∃ t, exec (.poll c) s = .next t ∧ delivered t = [] ∧ Receiving id frames future t := by
  have hpoll := exec_poll_of_some h.localId c
  rw [parseFrame_of_dscan_none (dscan_eq_none_of_prefix (List.prefix_append _ u) hharmless.1)] at hpoll
  exact ⟨_, hpoll, rfl, h.keep rfl ⟨u, hharmless.of_append_left, hstream⟩⟩

/-- A POLL that brings the next delimiter but not the whole front of its frame waits. -/
theorem Receiving.poll_of_short_frame {tail x : Bits} {bytes : Bytes} (hbytes : bytes.length = Config.frameBytes Config.cap)
    (hne : frames ≠ []) (hharmless : HarmlessBefore frames tail) (hbuf : s.rxbuf ++ b2b c = tail ++ x)
    (hstream : x ++ b2b future = b2b (frames.map (wireOf id)).flatten) (hx : x <+: frameFront bytes)
    (h8 : 8 ≤ x.length) (hshort : x.length < (frameFront bytes).length) :
    ∃ t, exec (.poll c) s = .next t ∧ delivered t = [] ∧ Receiving id frames future t := by
  have hpoll := exec_poll_of_some h.localId c
  rw [hbuf, List.prefix_iff_eq_take.mp hx,
    parseFrame_append_take_frameFront hbytes (hharmless.2 hne) id h8 hshort, ← List.prefix_iff_eq_take.mp hx] at hpoll
  exact ⟨_, hpoll, rfl, h.keep rfl ⟨tail, hharmless, (List.append_assoc ..).trans (congrArg (tail ++ ·) hstream)⟩⟩

end

/-- A POLL that brings the whole front of the next frame delivers it (R112, R118). -/
theorem Receiving.poll_of_frame {id : Byte} {f : Byte × Bytes} {rest : List (Byte × Bytes)} {c future : Bytes} {s : State}
    (h : Receiving id (f :: rest) (c ++ future) s) {tail y : Bits} (hharmless : HarmlessBefore (f :: rest) tail)
    (hbuf : s.rxbuf ++ b2b c = tail ++ (frameFront (protectedBytes Config.cap id f.1 f.2) ++ y))
    (hstream : y ++ b2b future =
      wireTail (protectedBytes Config.cap id f.1 f.2) ++ b2b (rest.map (wireOf id)).flatten) :
    ∃ t, exec (.poll c) s = .next t ∧ delivered t = [f.2] ∧ Receiving id rest future t := by
  have hle := h.fits f List.mem_cons_self
  have hpoll := pollWith_append_frameFront (protectedBytes_length Config.cap id f.1 f.2 hle)
    (hharmless.2 (List.cons_ne_nil f rest)) h.localId hbuf
  rw [pollReply_judgeFrame_protectedBytes (by decide) hle, if_pos rfl] at hpoll
  refine ⟨_, hpoll, rfl, h.localId, fun g hg => h.fits g (List.mem_cons_of_mem f hg), fun g hg => h.separate g ?_,
    _, .wireTail fun hne => h.separate f ?_, hstream⟩
  · rw [List.dropLast_cons_of_ne_nil (List.ne_nil_of_mem (List.dropLast_subset _ hg))]
    exact List.mem_cons_of_mem f hg
  · rw [List.dropLast_cons_of_ne_nil hne]
    exact List.mem_cons_self

/-- The bits at hand end within the tail of the last frame, or reach past it by at least one whole byte. -/
theorem stream_cases {buf tail : Bits} {future bytes : Bytes} (h : buf ++ b2b future = tail ++ b2b bytes) :
    (∃ u, tail = buf ++ u ∧ b2b future = u ++ b2b bytes) ∨
    ∃ x, buf = tail ++ x ∧ 8 ≤ x.length ∧ x ++ b2b future = b2b bytes := by
  obtain hlow | hhigh := le_or_gt buf.length tail.length
  · obtain ⟨u, rfl⟩ := List.prefix_of_prefix_length_le (List.prefix_append buf (b2b future))
      (h ▸ List.prefix_append tail _) hlow
    rw [List.append_assoc, List.append_cancel_left_eq] at h
    exact .inl ⟨u, rfl, h⟩
  · obtain ⟨x, rfl⟩ := List.prefix_of_prefix_length_le (List.prefix_append tail (b2b bytes))
      (h ▸ List.prefix_append buf _) hhigh.le
    rw [List.append_assoc, List.append_cancel_left_eq] at h
    have hlen := congrArg List.length h
    rw [List.length_append, b2b_length, b2b_length] at hlen
    rw [List.length_append] at hhigh
    exact .inr ⟨x, rfl, by omega, h⟩

/-- A POLL after which the next delimiter is in the buffer delivers its frame or waits for the rest of its front. -/
theorem Receiving.poll_of_delimiter {id : Byte} {f : Byte × Bytes} {rest : List (Byte × Bytes)} {c future : Bytes}
    {s : State} (h : Receiving id (f :: rest) (c ++ future) s) {tail x : Bits}
    (hharmless : HarmlessBefore (f :: rest) tail) (hbuf : s.rxbuf ++ b2b c = tail ++ x) (h8 : 8 ≤ x.length)
    (hstream : x ++ b2b future = b2b ((f :: rest).map (wireOf id)).flatten) : ∃ t, exec (.poll c) s = .next t ∧
      ((delivered t = [] ∧ Receiving id (f :: rest) future t ∧ future ≠ []) ∨
       (delivered t = [f.2] ∧ Receiving id rest future t)) := by
  have hwires : x ++ b2b future = frameFront (protectedBytes Config.cap id f.1 f.2) ++
      (wireTail (protectedBytes Config.cap id f.1 f.2) ++ b2b (rest.map (wireOf id)).flatten) := by
    rw [hstream, List.map_cons, List.flatten_cons, b2b_append, b2b_wireOf, List.append_assoc]
  obtain hshort | hwhole := Nat.lt_or_ge x.length (frameFront (protectedBytes Config.cap id f.1 f.2)).length
  · have hx := List.prefix_of_prefix_length_le (List.prefix_append x (b2b future))
      (hwires ▸ List.prefix_append _ _) hshort.le
    obtain ⟨t, ht, hnone, hnext⟩ := h.poll_of_short_frame
      (protectedBytes_length Config.cap id f.1 f.2 (h.fits f List.mem_cons_self)) (List.cons_ne_nil f rest) hharmless hbuf
      hstream hx h8 hshort
    refine ⟨t, ht, .inl ⟨hnone, hnext, fun hf => ?_⟩⟩
    have hlen := congrArg List.length hwires
    rw [hf, b2b_nil, List.append_nil, List.length_append] at hlen
    omega
  · obtain ⟨y, rfl⟩ := List.prefix_of_prefix_length_le (List.prefix_append _ _)
      (hwires ▸ List.prefix_append x (b2b future)) hwhole
    rw [List.append_assoc, List.append_cancel_left_eq] at hwires
    obtain ⟨t, ht, hf, hnext⟩ := h.poll_of_frame hharmless hbuf hwires
    exact ⟨t, ht, .inr ⟨hf, hnext⟩⟩

/-- One POLL in a stream delivers the next frame or nothing, and not nothing if all the bytes of a frame are there (R118). -/
theorem Receiving.poll {id : Byte} {frames : List (Byte × Bytes)} {c future : Bytes} {s : State}
    (h : Receiving id frames (c ++ future) s) : ∃ t, exec (.poll c) s = .next t ∧
      ((delivered t = [] ∧ Receiving id frames future t ∧ (future = [] → frames = [])) ∨
       ∃ f rest, frames = f :: rest ∧ delivered t = [f.2] ∧ Receiving id rest future t) := by
  obtain ⟨tail, hharmless, hstream⟩ := h.stream
  rw [b2b_append, ← List.append_assoc] at hstream
  obtain ⟨u, rfl, hrest⟩ | ⟨x, hbuf, h8, hrest⟩ := stream_cases hstream
  · obtain ⟨t, ht, hnone, hnext⟩ := h.poll_of_no_frame hharmless hrest
    refine ⟨t, ht, .inl ⟨hnone, hnext, fun hf => ?_⟩⟩
    have hlen := congrArg List.length hrest
    have hle := length_le_b2b_wires id frames
    rw [hf, List.length_append, b2b_nil, List.length_nil] at hlen
    exact List.length_eq_zero_iff.mp (by omega)
  · cases frames with
    | nil =>
      have hlen := congrArg List.length hrest
      simp only [List.map_nil, List.flatten_nil, b2b_nil, List.length_append, List.length_nil] at hlen
      omega
    | cons f rest =>
      obtain ⟨t, ht, ⟨hnone, hnext, hne⟩ | ⟨hf, hnext⟩⟩ := h.poll_of_delimiter hharmless hbuf h8 hrest
      · exact ⟨t, ht, .inl ⟨hnone, hnext, fun hf => absurd hf hne⟩⟩
      · exact ⟨t, ht, .inr ⟨f, rest, rfl, hf, hnext⟩⟩

/-- POLL of every chunk delivers the first frames of the stream and leaves the others in the buffer (R118). -/
theorem Receiving.pollAll {id : Byte} {frames : List (Byte × Bytes)} {chunks : List Bytes} {s : State}
    (h : Receiving id frames chunks.flatten s) : ∃ done rest, frames = done ++ rest ∧
      (pollAll chunks s).1 = done.map (·.2) ∧ Receiving id rest [] (pollAll chunks s).2 := by
  induction chunks generalizing frames s with
  | nil => exact ⟨[], frames, rfl, rfl, h⟩
  | cons c chunks ih =>
    obtain ⟨t, ht, ⟨hnone, hnext, -⟩ | ⟨f, rest, rfl, hf, hnext⟩⟩ := h.poll
    · obtain ⟨done, rest, hsplit, hdone, hrest⟩ := ih hnext
      refine ⟨done, rest, hsplit, ?_, ?_⟩ <;> simp only [Machine.pollAll, ht]
      · rw [hnone, List.nil_append, hdone]
      · exact hrest
    · obtain ⟨done, rest, rfl, hdone, hrest⟩ := ih hnext
      refine ⟨f :: done, rest, rfl, ?_, ?_⟩ <;> simp only [Machine.pollAll, ht]
      · rw [hf, hdone, List.map_cons, List.singleton_append]
      · exact hrest

/-- Draining delivers every frame that is whole in the buffer, as long as the loop may go on (30_encoding.md R68). -/
theorem Receiving.drainFor {id : Byte} {frames : List (Byte × Bytes)} {s : State} {n : Nat}
    (h : Receiving id frames [] s) (hn : frames.length < n) :
    (drainFor (fun t => delivered t != []) n s).1 = frames.map (·.2) := by
  induction n generalizing frames s with
  | zero => exact absurd hn (Nat.not_lt_zero _)
  | succ n ih =>
    obtain ⟨t, ht, ⟨hnone, -, hempty⟩ | ⟨f, rest, rfl, hf, hnext⟩⟩ := h.poll (c := [])
    · simp [Machine.drainFor, ht, hnone, hempty rfl]
    · simp [Machine.drainFor, ht, hf, ih hnext (Nat.lt_of_succ_lt_succ hn)]

/-- There are no more frames to come than bits in the buffer, once all the bytes are there. -/
theorem Receiving.length_le {id : Byte} {frames : List (Byte × Bytes)} {s : State} (h : Receiving id frames [] s) :
    frames.length ≤ s.rxbuf.length := by
  obtain ⟨tail, -, hstream⟩ := h.stream
  have hle := length_le_b2b_wires id frames
  have hlen := congrArg List.length hstream
  rw [b2b_nil, List.append_nil, List.length_append] at hlen
  omega

theorem Receiving.drain {id : Byte} {frames : List (Byte × Bytes)} {s : State} (h : Receiving id frames [] s) :
    (drain s).1 = frames.map (·.2) :=
  h.drainFor (Nat.lt_succ_of_le h.length_le)

end Sys2Proof.Machine
end

section
/-! The statement of spec/43_receive.md about a stream in chunks (R118). -/

namespace Sys2Proof.Proofs

open Sys2Proof.Machine

/-- Settles O55: the stream is kept by every POLL, so the chunks deliver the first frames and the drain the others. -/
theorem wireImagesAreReceivedInAnyChunks : Obligations.WireImagesAreReceivedInAnyChunks := by
  intro id frames wires chunks s hid hbuf hframes hchunks hseparate
  have hstart : Receiving id frames chunks.flatten s := by
    obtain ⟨hfits, rfl⟩ := map_serializeFrame_eq_some hframes
    exact ⟨hid, hfits, hseparate, [], ⟨rfl, fun _ => rfl⟩, by rw [hbuf, hchunks]⟩
  obtain ⟨done, rest, rfl, hdone, hrest⟩ := hstart.pollAll
  rw [hdone, hrest.drain, List.map_append]

end Sys2Proof.Proofs
end

section
/-! What a parse can deliver (42_framecodec.md R95, R96), and that every reply made from it is sound. -/

namespace Sys2Proof.Machine

/-- A consumed count is at least the delimiter and the `N` bits of a window (R95). -/
theorem le_consumedOf_parseFrame {cap : Nat} {id : Byte} {raw : Bits} {c : Nat}
    (h : consumedOf (parseFrame cap id raw) = some c) : 8 + Config.frameBits cap ≤ c := by
  obtain ⟨k, w, -, hw, rfl⟩ := consumedOf_parseFrame h
  have hle := frameBits_le_of_resolve hw
  omega

/-- A delivered payload has at most `CAP` bytes (R96 step 5). -/
theorem length_le_of_parseFrame_ok {cap : Nat} {id dst src : Byte} {raw : Bits} {c : Nat} {payload : Bytes}
    (h : parseFrame cap id raw = .ok c dst src payload) : payload.length ≤ cap := by
  obtain ⟨k, w, hk, hw, -⟩ := consumedOf_parseFrame (congrArg consumedOf h)
  rw [parseFrame_of_resolve_some hk hw] at h
  obtain hj | hj | hj | ⟨src', p, hj, hle⟩ := judgeFrame_cases cap id (k + 8 + w)
    (bits2b (unstuff ((raw.drop (k + 8)).take w))) <;> cases hj.symm.trans h
  exact hle

/-- POLL's replies are sound (30_encoding.md R63). -/
theorem pollReply_sound (id : Byte) (raw : Bits) : (pollReply (parseFrame Config.cap id raw)).Sound := by
  cases h : parseFrame Config.cap id raw with
  | ok c dst src payload => exact ⟨rfl, length_le_of_parseFrame_ok h⟩
  | noDelimiter | needMoreData | checksumMismatch | notAddressedToMe | lengthOutOfRange => exact rfl

/-- DECODE's replies are sound (R95, R96). -/
theorem decodeAnswer_sound (id : Byte) (raw : Bits) : (decodeAnswer (parseFrame Config.cap id raw)).Sound := by
  cases h : parseFrame Config.cap id raw with
  | noDelimiter | needMoreData => exact trivial
  | checksumMismatch c => exact ⟨.inl rfl, le_consumedOf_parseFrame (congrArg consumedOf h)⟩
  | notAddressedToMe c => exact ⟨.inr (.inl rfl), le_consumedOf_parseFrame (congrArg consumedOf h)⟩
  | lengthOutOfRange c => exact ⟨.inr (.inr rfl), le_consumedOf_parseFrame (congrArg consumedOf h)⟩
  | ok c dst src payload =>
    exact ⟨rfl, length_le_of_parseFrame_ok h, le_consumedOf_parseFrame (congrArg consumedOf h)⟩

theorem pollReply_outcome_mem (f : Parsed) (b : Bytes) : (pollReply f).outcome ∈ outcomesOf (.poll b) := by
  cases f <;> simp [pollReply, outcomesOf]

theorem pollReply_resultPort (f : Parsed) : (pollReply f).resultPort = pollClass (pollReply f).outcome := by
  cases f <;> rfl

theorem decodeAnswer_outcome_mem (f : Parsed) (raw : Bits) : (decodeAnswer f).outcome ∈ outcomesOf (.decode raw) := by
  cases f <;> simp [decodeReply, outcomesOf]

theorem decodeAnswer_resultPort (f : Parsed) : (decodeAnswer f).resultPort = none := by
  cases f <;> rfl

end Sys2Proof.Machine
end

section
/-! The effect of a command: what it writes, given what it reads (10_state.md R22). Every command has an effect that is
fixed by the pieces of state the access table lets it read, and stays within what the table and the outcome table allow. -/

namespace Sys2Proof.Machine

/-- What a command writes: an identifier or the buffer where it writes one, its reply, and its channel writes. -/
structure Effect where
  localId : Option Byte := none
  peerId : Option Byte := none
  rxbuf : Option Bits := none
  reply : Reply
  writes : List Bytes := []

/-- The state after the effect. -/
def Effect.apply (e : Effect) (s : State) : State :=
  { s with
    localId := e.localId.or s.localId
    peerId := e.peerId.or s.peerId
    rxbuf := e.rxbuf.getD s.rxbuf
    reply := some e.reply
    chan := s.chan ++ e.writes }

/-- Two states agree on the pieces the command reads (R22). -/
def AgreeOnReads (i : Instr) (s s' : State) : Prop :=
  (readsLocal i = true → s.localId = s'.localId) ∧ (readsPeer i = true → s.peerId = s'.peerId) ∧
    (readsBuffer i = true → s.rxbuf = s'.rxbuf)

theorem AgreeOnReads.refl (i : Instr) (s : State) : AgreeOnReads i s s :=
  ⟨fun _ => rfl, fun _ => rfl, fun _ => rfl⟩

/-- The class on `RESULT` for an outcome of the command: POLL's, and a frame's, which is a POLL (R63, log 1). -/
def resultClass (i : Instr) (o : Status) : Option (BitVec 2) :=
  match i with
  | .poll _ => pollClass o
  | .frame _ _ _ _ _ => pollClass o
  | _ => none

/-- `e` is the effect of `i` wherever what `i` reads is as in `s`, and it keeps to the tables and to the invariant's
clauses. -/
structure IsEffect (i : Instr) (s : State) (e : Effect) : Prop where
  exec_eq : ∀ s', AgreeOnReads i s s' → exec i s' = .next (e.apply s')
  localId : writesLocal i = false → e.localId = none
  peerId : writesPeer i = false → e.peerId = none
  rxbuf : writesBuffer i = false → e.rxbuf = none
  writes : writesChannel i = false → e.writes = []
  outcome : e.reply.outcome ∈ outcomesOf i
  result : e.reply.resultPort = resultClass i e.reply.outcome
  sound : e.reply.Sound
  wireImages : ∀ w ∈ e.writes, WireImage w
  /-- An engine without `LOCAL_ID` puts nothing into its buffer (44_control_send.md R120 corner case a). -/
  unwritten : s.localId = none → e.rxbuf.getD [] = []

/-- A command that changes nothing but the reply. -/
theorem isEffect_of_reply {i : Instr} {s : State} {r : Reply}
    (hexec : ∀ s', AgreeOnReads i s s' → exec i s' = .next { s' with reply := some r }) (hout : r.outcome ∈ outcomesOf i)
    (hresult : r.resultPort = resultClass i r.outcome) (hsound : r.Sound) : IsEffect i s { reply := r } where
  exec_eq s' h := by rw [hexec s' h, Effect.apply, List.append_nil]; rfl
  localId _ := rfl
  peerId _ := rfl
  rxbuf _ := rfl
  writes _ := rfl
  outcome := hout
  result := hresult
  sound := hsound
  wireImages := nofun
  unwritten _ := rfl

theorem exists_effect_setlocal (id : Byte) (s : State) : ∃ e, IsEffect (.setlocal id) s e := by
  cases hscan : dscan s.rxbuf with
  | none => exact ⟨{ localId := some id, reply := ⟨.ok, .none⟩ }, {
      exec_eq s' h := by
        rw [exec_setlocal_of_dscan_none (h.2.2 rfl ▸ hscan), Effect.apply, List.append_nil]
        rfl
      localId := nofun
      peerId _ := rfl
      rxbuf _ := rfl
      writes _ := rfl
      outcome := by simp [outcomesOf]
      result := rfl
      sound := trivial
      wireImages := nofun
      unwritten _ := rfl }⟩
  | some k =>
    exact ⟨_, isEffect_of_reply (fun _ h => exec_setlocal_of_dscan_some (h.2.2 rfl ▸ hscan) id) (by simp [outcomesOf])
      rfl trivial⟩

theorem exists_effect_setpeer (id : Byte) (s : State) : ∃ e, IsEffect (.setpeer id) s e := by
  cases hscan : dscan s.rxbuf with
  | none => exact ⟨{ peerId := some id, reply := ⟨.ok, .none⟩ }, {
      exec_eq s' h := by
        rw [exec_setpeer_of_dscan_none (h.2.2 rfl ▸ hscan), Effect.apply, List.append_nil]
        rfl
      localId _ := rfl
      peerId := nofun
      rxbuf _ := rfl
      writes _ := rfl
      outcome := by simp [outcomesOf]
      result := rfl
      sound := trivial
      wireImages := nofun
      unwritten _ := rfl }⟩
  | some k =>
    exact ⟨_, isEffect_of_reply (fun _ h => exec_setpeer_of_dscan_some (h.2.2 rfl ▸ hscan) id) (by simp [outcomesOf])
      rfl trivial⟩

/-- OPEN and CLOSE empty the buffer (44_control_send.md R122, R123). -/
theorem isEffect_of_clear {i : Instr} {s : State}
    (hexec : ∀ s', exec i s' = .next { s' with rxbuf := [], reply := some ⟨.ok, .none⟩ })
    (hwrites : writesBuffer i = true) (hout : .ok ∈ outcomesOf i) (hresult : none = resultClass i .ok) :
    IsEffect i s { rxbuf := some [], reply := ⟨.ok, .none⟩ } where
  exec_eq s' _ := by rw [hexec s', Effect.apply, List.append_nil]; rfl
  localId _ := rfl
  peerId _ := rfl
  rxbuf h := absurd (hwrites.symm.trans h) nofun
  writes _ := rfl
  outcome := hout
  result := hresult
  sound := trivial
  wireImages := nofun
  unwritten _ := rfl

theorem exists_effect_send (payload : Bytes) (s : State) : ∃ e, IsEffect (.send payload) s e := by
  have hrefused (hno : s.localId = none ∨ s.peerId = none) : ∃ e, IsEffect (.send payload) s e :=
    ⟨_, isEffect_of_reply (fun _ h => exec_send_of_none (h.1 rfl ▸ h.2.1 rfl ▸ hno) payload) (by simp [outcomesOf]) rfl
      trivial⟩
  cases hl : s.localId with
  | none => exact hrefused (.inl hl)
  | some l =>
    cases hp : s.peerId with
    | none => exact hrefused (.inr hp)
    | some p =>
      obtain hlt | hle := lt_or_ge Config.cap payload.length
      · exact ⟨_, isEffect_of_reply (fun _ h => exec_send_of_lt (h.1 rfl ▸ hl) (h.2.1 rfl ▸ hp) hlt) (by simp [outcomesOf])
          rfl trivial⟩
      · exact ⟨{ reply := ⟨.ok, .none⟩, writes := [bits2b (encodedFrame (protectedBytes Config.cap p l payload))] }, {
          exec_eq s' h := exec_send_of_eq_some (h.1 rfl ▸ hl) (h.2.1 rfl ▸ hp) (encodeFrame_of_le hle p l)
          localId _ := rfl
          peerId _ := rfl
          rxbuf _ := rfl
          writes := nofun
          outcome := by simp [outcomesOf]
          result := rfl
          sound := trivial
          wireImages := by
            rw [List.forall_mem_singleton]
            exact wireImage_bits2b_encodedFrame (protectedBytes_length Config.cap p l payload hle)
          unwritten _ := rfl }⟩

theorem exists_effect_poll (b : Bytes) (s : State) : ∃ e, IsEffect (.poll b) s e := by
  cases hid : s.localId with
  | none =>
    exact ⟨_, isEffect_of_reply (fun _ h => exec_poll_of_none (h.1 rfl ▸ hid) b) (by simp [outcomesOf]) rfl rfl⟩
  | some id => exact ⟨{
      rxbuf := some (pollRest (parseFrame Config.cap id (s.rxbuf ++ b2b b)) (s.rxbuf ++ b2b b))
      reply := pollReply (parseFrame Config.cap id (s.rxbuf ++ b2b b)) }, {
      exec_eq s' h := by
        rw [exec_poll_of_some (h.1 rfl ▸ hid), ← h.2.2 rfl, Effect.apply, List.append_nil]
        rfl
      localId _ := rfl
      peerId _ := rfl
      rxbuf := nofun
      writes _ := rfl
      outcome := pollReply_outcome_mem _ b
      result := pollReply_resultPort _
      sound := pollReply_sound id _
      wireImages := nofun
      unwritten h := absurd (hid.symm.trans h) nofun }⟩

theorem exists_effect_decode (raw : Bits) (s : State) : ∃ e, IsEffect (.decode raw) s e := by
  cases hid : s.localId with
  | none =>
    exact ⟨_, isEffect_of_reply (fun _ h => exec_decode_of_none (h.1 rfl ▸ hid) raw) (by simp [outcomesOf]) rfl trivial⟩
  | some id =>
    exact ⟨_, isEffect_of_reply (fun _ h => exec_decode_of_some (h.1 rfl ▸ hid) raw) (decodeAnswer_outcome_mem _ raw)
      (decodeAnswer_resultPort _) (decodeAnswer_sound id raw)⟩

/-- Every command has an effect, in every state. -/
theorem exists_effect (i : Instr) (s : State) : ∃ e, IsEffect i s e := by
  cases i with
  | setlocal id => exact exists_effect_setlocal id s
  | setpeer id => exact exists_effect_setpeer id s
  | openChan => exact ⟨_, isEffect_of_clear exec_openChan rfl (by simp [outcomesOf]) rfl⟩
  | closeChan => exact ⟨_, isEffect_of_clear exec_closeChan rfl (by simp [outcomesOf]) rfl⟩
  | send payload => exact exists_effect_send payload s
  | poll b => exact exists_effect_poll b s
  | b2b | bits2b | stuff | unstuff | xorsum | dscan =>
    exact ⟨_, isEffect_of_reply (fun _ _ => rfl) (by simp [outcomesOf]) rfl rfl⟩
  | encode dst src payload =>
    obtain hlt | hle := lt_or_ge Config.cap payload.length
    · exact ⟨_, isEffect_of_reply (fun s' _ => exec_encode_of_lt hlt dst src s') (by simp [outcomesOf]) rfl trivial⟩
    · exact ⟨_, isEffect_of_reply (fun s' _ => exec_encode_of_eq_some (encodeFrame_of_le hle dst src) s')
        (by simp [outcomesOf]) rfl rfl⟩
  | decode raw => exact exists_effect_decode raw s
  | serialize dst src payload =>
    obtain hlt | hle := lt_or_ge Config.cap payload.length
    · exact ⟨_, isEffect_of_reply (fun s' _ => exec_serialize_of_lt hlt dst src s') (by simp [outcomesOf]) rfl trivial⟩
    · exact ⟨_, isEffect_of_reply (fun s' _ => exec_serialize_of_eq_some (encodeFrame_of_le hle dst src) s')
        (by simp [outcomesOf]) rfl rfl⟩
  | frame dst src len payload checksum =>
    obtain ⟨e, he⟩ := exists_effect_poll (bits2b (encodedFrame (dst :: src :: len :: (payload ++ [checksum])))) s
    exact ⟨e, ⟨he.exec_eq, he.localId, he.peerId, he.rxbuf, he.writes, he.outcome, he.result, he.sound, he.wireImages,
      he.unwritten⟩⟩

/-- The next state of a command is its effect on the state. -/
theorem IsEffect.next_eq {i : Instr} {s t : State} {e : Effect} (he : IsEffect i s e) (h : exec i s = .next t) :
    t = e.apply s :=
  Host.Outcome.next.inj (h.symm.trans (he.exec_eq s (.refl i s)))

/-- An effect keeps the invariant. -/
theorem IsEffect.inv {i : Instr} {s : State} {e : Effect} (he : IsEffect i s e) (hs : s.Inv) : (e.apply s).Inv where
  buffer_empty h := by
    obtain ⟨-, hlocal⟩ := Option.or_eq_none_iff.mp h
    rw [Effect.apply, hs.buffer_empty hlocal]
    exact he.unwritten hlocal
  writes w hw := (List.mem_append.mp hw).elim (hs.writes w) (he.wireImages w)
  reply_sound r hr := Option.some.inj hr ▸ he.sound

end Sys2Proof.Machine
end

section
/-! The statements about what every command does: its outcome (60_exceptions.md R140, R146), the pieces of state it touches
(10_state.md R22, R23), and the invariant of the machine. -/

namespace Sys2Proof.Proofs

open Sys2Proof.Machine

/-- Settles O10, from the effect of the instruction in the state. -/
theorem everyCommandAnswersOneOfItsOutcomes : Obligations.EveryCommandAnswersOneOfItsOutcomes := by
  intro i s
  obtain ⟨e, he⟩ := exists_effect i s
  exact ⟨_, e.reply, he.exec_eq s (.refl i s), rfl, he.outcome, he.result.trans (by cases i <;> rfl)⟩

/-- Settles O13: the effect is the same wherever the three pieces are. -/
theorem noOutcomeIsFatal : Obligations.NoOutcomeIsFatal := by
  constructor
  · intro s
    cases hs : s.input with
    | nil => exact ⟨s, by rw [step, takeInput_nil hs]⟩
    | cons x rest =>
      cases hd : decode x with
      | error e => exact ⟨_, step_of_decode_error hs hd⟩
      | ok i =>
        obtain ⟨e, he⟩ := exists_effect i { s with input := rest }
        exact ⟨_, (step_of_decode_ok hs hd).trans (he.exec_eq _ (.refl i _))⟩
  · intro i s s' hl hp hb
    obtain ⟨e, he⟩ := exists_effect i s
    refine ⟨_, _, he.exec_eq s (.refl i s), he.exec_eq s' ⟨fun _ => hl, fun _ => hp, fun _ => hb⟩, rfl, ?_, ?_, ?_,
      e.writes, rfl, rfl⟩
    · exact congrArg e.localId.or hl
    · exact congrArg e.peerId.or hp
    · exact congrArg e.rxbuf.getD hb

/-- Settles O14: idle, a reserved code, or the effect of a command. -/
theorem everyStepKeepsTheInvariant : Obligations.EveryStepKeepsTheInvariant := by
  intro s t hs h
  obtain ⟨-, rfl⟩ | ⟨x, rest, -, ⟨e, -, rfl⟩ | ⟨i, -, hexec⟩⟩ := step_cases h
  · exact hs
  · exact ⟨hs.buffer_empty, hs.writes, fun r hr => Option.some.inj hr ▸ trivial⟩
  · have hrest : State.Inv { s with input := rest } := ⟨hs.buffer_empty, hs.writes, hs.reply_sound⟩
    obtain ⟨e, he⟩ := exists_effect i { s with input := rest }
    exact he.next_eq hexec ▸ he.inv hrest

/-- Settles O16: an effect holds no piece that the table does not let the command write, and is fixed by the pieces it lets
the command read. -/
theorem commandsTouchOnlyWhatTheTableLists : Obligations.CommandsTouchOnlyWhatTheTableLists := by
  constructor
  · intro i s t h
    obtain ⟨e, he⟩ := exists_effect i s
    obtain rfl := he.next_eq h
    refine ⟨fun hw => ?_, fun hw => ?_, fun hw => ?_, fun hw => ?_, rfl⟩
    · rw [Effect.apply, he.localId hw, Option.none_or]
    · rw [Effect.apply, he.peerId hw, Option.none_or]
    · rw [Effect.apply, he.rxbuf hw, Option.getD_none]
    · rw [Effect.apply, he.writes hw, List.append_nil]
  · intro i s s' hl hp hb
    obtain ⟨e, he⟩ := exists_effect i s
    refine ⟨_, _, he.exec_eq s (.refl i s), he.exec_eq s' ⟨hl, hp, hb⟩, rfl, ?_, ?_, ?_, e.writes, rfl, rfl⟩
    · cases hc : e.localId <;> simp [Effect.apply, hc]
    · cases hc : e.peerId <;> simp [Effect.apply, hc]
    · cases hc : e.rxbuf <;> simp [Effect.apply, hc]

/-- Settles O49: POLL's next state for each thing DECODE can find, and the effects that hold a buffer. -/
theorem bufferInvariantAfterEveryCommand : Obligations.BufferInvariantAfterEveryCommand := by
  constructor
  · intro newBytes s
    cases hid : s.localId with
    | none => exact ⟨_, _, _, exec_poll_of_none hid newBytes, rfl, nofun, nofun, fun _ => ⟨rfl, rfl⟩,
      fun _ _ h => absurd rfl h⟩
    | some id =>
      have hpoll := exec_poll_of_some hid newBytes
      have hcount : ∀ c, consumedOf (parseFrame Config.cap id (s.rxbuf ++ b2b newBytes)) = some c →
          0 < c ∧ c ≤ s.rxbuf.length + 8 * newBytes.length := fun c hc => by
        rw [← b2b_length, ← List.length_append]
        exact ⟨(Nat.succ_pos _).trans_le (le_consumedOf_parseFrame hc), consumedOf_parseFrame_le hc⟩
      generalize parseFrame Config.cap id (s.rxbuf ++ b2b newBytes) = f at hpoll hcount
      cases f with
      | noDelimiter => exact ⟨_, _, _, hpoll, rfl, fun _ => rfl, nofun, nofun, fun h => absurd rfl h⟩
      | needMoreData => exact ⟨_, _, _, hpoll, rfl, nofun, fun _ => rfl, nofun, fun _ h => absurd rfl h⟩
      | checksumMismatch c | notAddressedToMe c | lengthOutOfRange c | ok c =>
        exact ⟨_, _, _, hpoll, rfl, nofun, nofun, nofun, fun _ _ _ => ⟨c, (hcount c rfl).1, (hcount c rfl).2, rfl⟩⟩
  · intro i s t h hne
    obtain ⟨e, he⟩ := exists_effect i s
    cases hw : writesBuffer i with
    | false =>
      obtain rfl := he.next_eq h
      exact absurd (by rw [Effect.apply, he.rxbuf hw, Option.getD_none]) hne
    | true => cases i <;> simp [writesBuffer] at hw ⊢

end Sys2Proof.Proofs
end

section
/-! A frame image is its bytes (30_encoding.md R50): the decoder and the encoder are inverse on frames. -/

namespace Sys2Proof.Machine

theorem bitsNat_append (a b : Bits) : bitsNat (a ++ b) = bitsNat a + 2 ^ a.length * bitsNat b := by
  induction a with
  | nil => simp [bitsNat]
  | cons x rest ih =>
    rw [List.cons_append, bitsNat, bitsNat, ih, List.length_cons]
    ring

theorem bitsNat_byteBits (b : Byte) : bitsNat (byteBits b) = b.toNat := by
  refine Nat.eq_of_testBit_eq fun i => ?_
  rw [testBit_bitsNat, BitVec.testBit_toNat, List.getD_eq_getElem?_getD]
  by_cases hi : i < 8
  · rw [getElem?_byteBits b hi, Option.getD_some]
  · rw [List.getElem?_eq_none (not_lt.mp hi), BitVec.getLsbD_of_ge b i (not_lt.mp hi), Option.getD_none]

/-- The number of a byte sequence is the number of its bits (R50, R70). -/
theorem bytesNat_eq_bitsNat (bytes : Bytes) : bytesNat bytes = bitsNat (b2b bytes) := by
  induction bytes with
  | nil => rfl
  | cons b rest ih => rw [bytesNat, b2b_cons, bitsNat_append, bitsNat_byteBits, ih, byteBits_length]; rfl

/-- Bit `i` of a frame image is the bit at offset `i` of its bytes (R50). -/
theorem getLsbD_imageOfBytes (bytes : Bytes) (i : Nat) :
    (imageOfBytes bytes).getLsbD i = (decide (i < 152) && (b2b bytes).getD i false) := by
  rw [imageOfBytes, BitVec.getLsbD_ofNat, bytesNat_eq_bitsNat, testBit_bitsNat]
  rfl

/-- The byte at an offset of the image is the one put there (R50). -/
theorem imageByte_imageOfBytes {bytes : Bytes} {j : Nat} {b : Byte} (hj : j < 19) (hb : bytes[j]? = some b) :
    imageByte (imageOfBytes bytes) j = b := by
  refine BitVec.eq_of_getLsbD_eq fun i hi => ?_
  rw [imageByte, BitVec.getLsbD_extractLsb', getLsbD_imageOfBytes, List.getD_eq_getElem?_getD, getElem?_b2b hb hi,
    decide_eq_true hi, decide_eq_true (by omega), Option.getD_some, Bool.true_and, Bool.true_and]

/-- The bytes at all 19 offsets of an image make it up again (R50). -/
theorem imageOfBytes_imageByte (image : FrameImage) :
    imageOfBytes ((List.range 19).map (imageByte image)) = image := by
  refine BitVec.eq_of_getLsbD_eq fun i hi => ?_
  have hi' : i < 152 := hi
  have hbyte : ((List.range 19).map (imageByte image))[i / 8]? = some (imageByte image (i / 8)) := by
    rw [List.getElem?_map, List.getElem?_range (by omega), Option.map_some]
  have hmod : i % 8 < 8 := Nat.mod_lt _ (by decide)
  rw [getLsbD_imageOfBytes, List.getD_eq_getElem?_getD, ← Nat.div_add_mod i 8, getElem?_b2b hbyte hmod, imageByte,
    BitVec.getLsbD_extractLsb', Nat.div_add_mod, decide_eq_true hi', decide_eq_true hmod, Option.getD_some,
    Bool.true_and, Bool.true_and]

/-- A frame of `CAP` payload bytes is read back from its image (R50). -/
theorem decodeFrame_imageOfBytes (dst src len : Byte) {payload : Bytes} (hlen : payload.length = Config.cap)
    (checksum : Byte) :
    decodeFrame (imageOfBytes (dst :: src :: len :: (payload ++ [checksum]))) = .frame dst src len payload checksum := by
  have hcap : Config.cap = 15 := rfl
  rw [decodeFrame, imageByte_imageOfBytes (b := dst) (by decide) rfl, imageByte_imageOfBytes (b := src) (by decide) rfl,
    imageByte_imageOfBytes (b := len) (by decide) rfl, imageByte_imageOfBytes (b := checksum) (by decide) (by simp [← hlen])]
  congr 1
  refine List.ext_getElem (by simp [hlen]) fun j _ hj => ?_
  rw [List.getElem_map, List.getElem_range, Nat.add_comm 3 j]
  exact imageByte_imageOfBytes (by omega) ((List.getElem?_append_left hj).trans (List.getElem?_eq_getElem hj))

/-- The image of the frame read from an image is that image (R50). -/
theorem encode_decodeFrame (image : FrameImage) : encode (decodeFrame image) = .frame image :=
  congrArg Input.frame (imageOfBytes_imageByte image)

/-- What the decoder reads from a command is well formed and encodes with the same code, whichever row of R60 it is. -/
theorem encode_of_decodeCommand {r : Request} {i : Instr} (h : decodeCommand r = .ok i) :
    i.wf = true ∧ ∃ r', encode i = .command r' ∧ r'.cmd = r.cmd := by
  unfold decodeCommand at h
  split at h
  case h_16 => cases h
  all_goals
    rename_i hcode
    cases h
    exact ⟨rfl, _, rfl, BitVec.eq_of_toNat_eq hcode.symm⟩

end Sys2Proof.Machine
end

section
/-! The statements of spec/30_encoding.md about the decoder and the encoder (R50, R60). -/

namespace Sys2Proof.Proofs

open Sys2Proof.Machine

/-- Settles O1: a command's encoding is its row of R60, and a frame is read back from its image. -/
theorem decodeOfEncodeIsTheInstruction : Obligations.DecodeOfEncodeIsTheInstruction := by
  intro i hwf
  cases i with
  | frame dst src len payload checksum =>
    exact congrArg Except.ok (decodeFrame_imageOfBytes dst src len (beq_iff_eq.mp hwf) checksum)
  | setlocal | setpeer | openChan | closeChan | send | poll | b2b | bits2b | stuff | unstuff | xorsum | dscan | encode
  | decode | serialize => rfl

/-- Settles O2: an image is the image of its own bytes, and each row of R60 encodes with its own code. -/
theorem decodedInstructionKeepsTheBits : Obligations.DecodedInstructionKeepsTheBits := by
  intro x i h
  cases x with
  | frame image =>
    obtain rfl := Except.ok.inj h
    exact ⟨rfl, fun _ _ => encode_decodeFrame image, nofun⟩
  | command r =>
    obtain ⟨hwf, r', henc, hcmd⟩ := encode_of_decodeCommand h
    refine ⟨hwf, nofun, fun r₀ hr => ⟨r', henc, ?_⟩⟩
    cases hr
    exact hcmd

/-- Settles O3, row by row of the table. -/
theorem everyTableCodeDecodesToItsCommand : Obligations.EveryTableCodeDecodesToItsCommand := by
  intro r
  simp only [decode, decodeCommand]
  refine ⟨?_, ?_, ?_, ?_, ?_, ?_, ?_, ?_, ?_, ?_, ?_, ?_, ?_, ?_, ?_⟩ <;> intro h <;> rw [h] <;> rfl

end Sys2Proof.Proofs
end

section
/-! The statements of spec/40_bitcodec.md about BITS2B (R71), the streaming forms (R75, R76) and growing prefixes (R77). -/

namespace Sys2Proof.Proofs

open Sys2Proof.Machine

/-- Settles O24: each bit is read off the bits of the bytes, which are the string and its padding. -/
theorem bits2bPadsTheHighEnd : Obligations.Bits2bPadsTheHighEnd := by
  refine ⟨fun bits s => ⟨bits2b bits, rfl, bits2b_length bits, fun j i b hb hi => ?_⟩, bits2b_b2b, b2b_bits2b⟩
  have hbit := getElem?_b2b hb hi
  rw [b2b_bits2b] at hbit
  by_cases hin : 8 * j + i < bits.length
  · rw [List.getElem?_append_left hin] at hbit
    rw [hbit, Option.getD_some]
  · rw [List.getElem?_append_right (not_lt.mp hin)] at hbit
    rw [List.getElem?_eq_none (not_lt.mp hin), Option.getD_none]
    exact List.eq_of_mem_replicate (List.mem_of_getElem? hbit)

/-- Settles O28, by the invariant of the counter (`stuff_spatTake_append`) at 0. -/
theorem streamingStufferEqualsStuff : Obligations.StreamingStufferEqualsStuff := by
  intro bits s
  rw [exec_stuff, stuffStream_zero]

/-- Settles O29, by the invariant of the counter (`unstuff_spatTake_append`) at 0. -/
theorem streamingUnstufferEqualsUnstuff : Obligations.StreamingUnstufferEqualsUnstuff := by
  intro bits s
  rw [exec_unstuff, unstuffStream_zero]

/-- Settles O30: the streaming unstuffer answers one more bit with one bit or none. -/
theorem unstuffIsPrefixStable : Obligations.UnstuffIsPrefixStable := by
  intro t w hw
  obtain ⟨u, hu, hle⟩ := unstuff_take_succ hw
  rw [hu, List.length_append]
  exact ⟨List.prefix_append _ u, by omega⟩

end Sys2Proof.Proofs
end

section
/-! XORSUM of bytes taken pairwise (41_scan_checksum.md R83, 70_reset_and_hazards.md R179). -/

namespace Sys2Proof.Machine

/-- XORSUM of bytes made pairwise by two maps that keep the exclusive or is made of the two XORSUMs in the same way. -/
theorem xorsum_zipWith {f g : Byte → Byte} (hf : ∀ a b, f (a ^^^ b) = f a ^^^ f b) (hg : ∀ a b, g (a ^^^ b) = g a ^^^ g b)
    {x y : Bytes} (h : x.length = y.length) :
    xorsum (List.zipWith (fun a b => f a ^^^ g b) x y) = f (xorsum x) ^^^ g (xorsum y) := by
  have hzero : ∀ k : Byte → Byte, (∀ a b, k (a ^^^ b) = k a ^^^ k b) → k 0 = 0 := fun k hk => by
    have hk0 := hk 0 0
    simpa using hk0
  induction x generalizing y with
  | nil =>
    obtain rfl := List.length_eq_zero_iff.mp h.symm
    exact (congrArg₂ (· ^^^ ·) (hzero f hf) (hzero g hg)).symm
  | cons a x ih =>
    cases y with
    | nil => cases h
    | cons b y =>
      rw [List.zipWith_cons_cons, xorsum_cons, xorsum_cons, xorsum_cons, ih (Nat.succ.inj h), hf, hg]
      ac_rfl

/-- The two parts of a byte shifted by `j` bits have no bit in common (R179). -/
theorem ushiftRight_or_shiftLeft_eq_xor (a b : Byte) {j : Nat} (hj : j ≤ 8) :
    (a >>> j) ||| (b <<< (8 - j)) = (a >>> j) ^^^ (b <<< (8 - j)) := by
  refine BitVec.eq_of_getLsbD_eq fun i hi => ?_
  rw [BitVec.getLsbD_or, BitVec.getLsbD_xor, BitVec.getLsbD_ushiftRight, BitVec.getLsbD_shiftLeft]
  by_cases hlow : i < 8 - j
  · simp [hlow]
  · rw [BitVec.getLsbD_of_ge a (j + i) (by omega), Bool.false_or, Bool.false_xor]

/-- XORSUM is zero exactly when every bit column is even (R80, R83). -/
theorem xorsum_eq_zero_iff (bytes : Bytes) :
    xorsum bytes = 0 ↔ ∀ i, i < 8 → (bytes.countP fun b => b.getLsbD i) % 2 = 0 := by
  have hodd : ∀ i, (xorsum bytes).getLsbD i = false ↔ (bytes.countP fun b => b.getLsbD i) % 2 = 0 := fun i => by
    rw [← Bool.not_eq_true, getLsbD_xorsum]
    omega
  constructor
  · intro h i _
    rw [← hodd, h]
    exact BitVec.getLsbD_zero
  · intro h
    exact BitVec.eq_of_getLsbD_eq fun i hi => ((hodd i).mpr (h i hi)).trans BitVec.getLsbD_zero.symm

end Sys2Proof.Machine
end

section
/-! The statements of spec/41_scan_checksum.md about the checksum (R81, R83) and DSCAN (R82 e), and of
spec/70_reset_and_hazards.md about a bit slip (R179). -/

namespace Sys2Proof.Proofs

open Sys2Proof.Machine

/-- Settles O32: the XOR of the body and one byte is zero exactly when they are equal. -/
theorem checksumByteMakesTheXorZero : Obligations.ChecksumByteMakesTheXorZero := by
  refine fun body c s => ⟨_, exec_xorsum _ s, ?_⟩
  have hsum : xorsum (body ++ [c]) = xorsum body ^^^ c := by simp [xorsum_append]
  rw [hsum, exec_xorsum]
  refine BitVec.xor_eq_zero_iff.trans ⟨fun h => by rw [h], fun h => ?_⟩
  simpa using h

/-- Settles O33: the XOR of what was got is that of the flips, and its bits are the parities of their columns. -/
theorem checksumMissesOnlyEvenColumns : Obligations.ChecksumMissesOnlyEvenColumns := by
  intro sent got hlen hsent
  have hflips : xorsum (List.zipWith (fun a b => a ^^^ b) sent got) = xorsum sent ^^^ xorsum got :=
    xorsum_zipWith (f := id) (g := id) (fun _ _ => rfl) (fun _ _ => rfl) hlen
  have hgot : xorsum got = xorsum (List.zipWith (fun a b => a ^^^ b) sent got) := by
    rw [hflips, hsent]
    exact BitVec.zero_xor.symm
  rw [hgot, xorsum_eq_zero_iff]

/-- Settles O34: the XOR of the shifted bytes is made of the XOR of the bytes, which is zero, and of that of the bytes one
further. -/
theorem bitSlipPassesOnMatchingLowBits : Obligations.BitSlipPassesOnMatchingLowBits := by
  intro b0 rest after j _ h7 hzero
  have hrest : b0 = xorsum rest := BitVec.xor_eq_zero_iff.mp hzero
  have hnext : xorsum (rest ++ [after]) = b0 ^^^ after := by simp [xorsum_append, hrest]
  have hlen : (b0 :: rest).length = (rest ++ [after]).length := by simp
  simp only [ushiftRight_or_shiftLeft_eq_xor _ _ (Nat.le_succ_of_le h7)]
  rw [xorsum_zipWith (f := (· >>> j)) (g := (· <<< (8 - j))) (fun a b => BitVec.ushiftRight_xor_distrib a b j)
    (fun a b => BitVec.shiftLeft_xor_distrib a b (8 - j)) hlen, hzero, hnext]
  exact (congrArg (· ^^^ _) BitVec.zero_ushiftRight).trans BitVec.zero_xor

/-- Settles O36, by what appended bits leave of the eight bits at an index. -/
theorem appendedBitsNeverMoveTheFirstDelimiter : Obligations.AppendedBitsNeverMoveTheFirstDelimiter :=
  fun _ t => ⟨fun _ h => dscan_append h t, fun _ hs h => length_lt_of_dscan_append hs h⟩

end Sys2Proof.Proofs
end

section
/-! The statements of spec/42_framecodec.md about lengths (R91, R92, R95), RESOLVE's properties (R93) and incomplete frames
(R97 d). -/

namespace Sys2Proof.Proofs

open Sys2Proof.Machine

/-- Settles O40: one bit a match, and a match takes seven bits. -/
theorem encodedFrameLengthIsBounded : Obligations.EncodedFrameLengthIsBounded := by
  intro cap dst src payload e he
  obtain ⟨hle, rfl⟩ := encodeFrame_eq_some.mp he
  have hbytes : (protectedBytes cap dst src payload).length = cap + 4 := protectedBytes_length cap dst src payload hle
  have hcount := seven_mul_stuffCount_le (b2b (protectedBytes cap dst src payload))
  rw [b2b_length, hbytes] at hcount
  rw [bits2b_length, encodedFrame_length, hbytes]
  refine ⟨_, rfl, rfl, ?_, ?_, ?_⟩
  · omega
  · omega
  · rintro rfl
    omega

/-- Settles O42: UNSTUFF grows by at most a bit a time and drops at most one in eight. -/
theorem resolveIsBoundedStableAndStreams : Obligations.ResolveIsBoundedStableAndStreams := by
  rintro cap n cand rfl
  refine ⟨fun w hw => ⟨frameBits_le_of_resolve hw, ?_, resolve_append hw⟩, resolve_eq_none_iff_lt, fun hnone => ?_,
    resolveStream_eq_resolve cap cand⟩
  · obtain ⟨hle, hlen⟩ := resolve_eq_some hw
    have hdrop := seven_mul_length_le_unstuff (cand.take w)
    rw [hlen, List.length_take_of_le hle, Config.frameBits, Config.frameBytes] at hdrop
    omega
  · have hlt := resolve_eq_none_iff_lt.mp hnone
    have hdrop := seven_mul_length_le_unstuff cand
    rw [Config.frameBits, Config.frameBytes] at hlt
    omega

/-- Settles O45: such a beginning of the frame is too short for a delimiter, or lies in the front that DECODE waits for. -/
theorem incompleteFrameNeedsMoreData : Obligations.IncompleteFrameNeedsMoreData := by
  intro dst src payload e s id j c hid he hc hj
  obtain ⟨hle, rfl⟩ := encodeFrame_eq_some.mp he
  have hfront : c = (frameFront (protectedBytes Config.cap dst src payload)).length := by
    have hlen := frameFront_length_add (protectedBytes Config.cap dst src payload)
    omega
  rw [encodedFrame_eq_frameFront_append, List.take_append_of_le_length (by omega), exec_decode_of_some hid]
  by_cases h8 : j < 8
  · rw [parseFrame_of_dscan_none (dscan_of_length_lt ((List.length_take_le ..).trans_lt h8)), if_pos h8]
    rfl
  · have hparse := parseFrame_append_take_frameFront (before := [])
      (protectedBytes_length Config.cap dst src payload hle) rfl id (not_lt.mp h8) (hfront ▸ hj)
    rw [List.nil_append] at hparse
    rw [hparse, if_neg h8]
    rfl

/-- Settles O50: the delimiter, a window of `N` bits or more, and no bit that is not there. -/
theorem consumedCountIsInRange : Obligations.ConsumedCountIsInRange :=
  fun _ _ _ _ h => ⟨le_consumedOf_parseFrame h, consumedOf_parseFrame_le h⟩

end Sys2Proof.Proofs
end

section
/-! POLL again (43_receive.md R114, R117) and the drain loops (30_encoding.md R68, 70_reset_and_hazards.md R173): a POLL that
resolves a window takes bits from the buffer, so both loops end. -/

namespace Sys2Proof.Machine

/-- POLL answers NeedMoreData exactly where DECODE finds a delimiter and no window, and then the buffer keeps all its bits
(R114). -/
theorem exec_poll_needMoreData {s t : State} {b : Bytes} {p : PollResult} (h : exec (.poll b) s = .next t)
    (hreply : t.reply = some ⟨.needMoreData, .poll p⟩) :
    ∃ id, s.localId = some id ∧ parseFrame Config.cap id (s.rxbuf ++ b2b b) = .needMoreData ∧
      t = { s with rxbuf := s.rxbuf ++ b2b b, reply := some ⟨.needMoreData, .poll .empty⟩ } := by
  cases hid : s.localId with
  | none => cases (exec_poll_of_none hid b).symm.trans h; cases hreply
  | some id =>
    have hpoll := (exec_poll_of_some hid b).symm.trans h
    refine ⟨id, rfl, ?_⟩
    cases hparse : parseFrame Config.cap id (s.rxbuf ++ b2b b) with
    | needMoreData => rw [hparse] at hpoll; cases hpoll; exact ⟨rfl, by rw [hid]; rfl⟩
    | noDelimiter | checksumMismatch | notAddressedToMe | lengthOutOfRange | ok =>
      rw [hparse] at hpoll; cases hpoll; cases hreply

/-- POLL changes nothing but the buffer and the reply, and its next state rests on the identifier and the buffer alone. -/
theorem exec_poll_congr {s t : State} {b c : Bytes} (ht : t = { s with rxbuf := t.rxbuf, reply := t.reply })
    {id : Byte} (hid : s.localId = some id) (hbuf : t.rxbuf ++ b2b b = s.rxbuf ++ b2b c) :
    exec (.poll b) t = exec (.poll c) s := by
  have htid : t.localId = some id := by rw [ht]; exact hid
  rw [exec_poll_of_some htid, exec_poll_of_some hid, hbuf, ht]

/-- R173's loop has nothing more to do: the last POLL resolved no window, and one more with no bytes changes nothing. -/
abbrev Drained (t : State) : Prop :=
  exec (.poll []) t = .next t ∧ ∃ o p, t.reply = some ⟨o, .poll p⟩ ∧
    (o = .needMoreData ∨ o = .noDelimiter ∨ (o = .refused ∧ t.localId = none))

/-- Every POLL with no bytes answers and changes only the buffer and the reply; it resolves a window and takes bits from the
buffer (42_framecodec.md R95), or nothing is left to drain. -/
theorem exec_poll_nil_cases (s : State) : ∃ t, exec (.poll []) s = .next t ∧
    t = { s with rxbuf := t.rxbuf, reply := t.reply } ∧
    ((resolvedFrame t = true ∧ t.rxbuf.length < s.rxbuf.length) ∨ (resolvedFrame t = false ∧ Drained t)) := by
  cases hid : s.localId with
  | none =>
    refine ⟨_, exec_poll_of_none hid [], by rw [hid], .inr ⟨rfl, exec_poll_of_none ?_ [], _, _, rfl, .inr (.inr ⟨rfl, hid⟩)⟩⟩
    exact hid
  | some id =>
    have hpoll := exec_poll_of_some hid []
    rw [b2b_nil, List.append_nil] at hpoll
    have hcount : ∀ c, consumedOf (parseFrame Config.cap id s.rxbuf) = some c →
        (s.rxbuf.drop c).length < s.rxbuf.length := fun c hc => by
      have hlow := le_consumedOf_parseFrame hc
      have hhigh := consumedOf_parseFrame_le hc
      rw [List.length_drop]
      omega
    refine ⟨_, hpoll, by rw [hid], ?_⟩
    cases hparse : parseFrame Config.cap id s.rxbuf with
    | noDelimiter =>
      refine .inr ⟨rfl, exec_poll_of_some (id := id) ?_ [], _, _, rfl, .inr (.inl rfl)⟩
      exact hid
    | needMoreData =>
      refine .inr ⟨rfl, ?_, _, _, rfl, .inl rfl⟩
      rw [hparse] at hpoll
      refine (exec_poll_congr ?_ hid ?_).trans hpoll <;> rfl
    | checksumMismatch c | notAddressedToMe c | lengthOutOfRange c | ok c =>
      exact .inl ⟨rfl, hcount c (congrArg consumedOf hparse)⟩

/-- A POLL that delivered a payload resolved a window (60_exceptions.md R141). -/
theorem resolvedFrame_of_delivered {t : State} (h : (delivered t != []) = true) : resolvedFrame t = true := by
  unfold delivered at h
  split at h
  · rename_i hreply
    simp only [resolvedFrame, hreply]
  · cases h

/-- A loop that goes on only after a resolved window, with more POLLs than bits in the buffer, ends with a POLL after which
it does not go on (log 15). -/
theorem drainFor_end {again : State → Bool} (hagain : ∀ t, again t = true → resolvedFrame t = true) {n : Nat} {s : State}
    (hn : s.rxbuf.length < n) : ∃ t, (drainFor again n s).2 = t ∧ again t = false ∧
      t = { s with rxbuf := t.rxbuf, reply := t.reply } ∧ (resolvedFrame t = false → Drained t) := by
  induction n generalizing s with
  | zero => exact absurd hn (Nat.not_lt_zero _)
  | succ n ih =>
    obtain ⟨t, ht, hframe, hcases⟩ := exec_poll_nil_cases s
    simp only [drainFor, ht]
    cases hgo : again t with
    | false => exact ⟨t, rfl, hgo, hframe, fun h => (hcases.resolve_left fun hl => nomatch h.symm.trans hl.1).2⟩
    | true =>
      obtain ⟨-, hless⟩ | ⟨hstop, -⟩ := hcases
      · obtain ⟨u, hu, hend, hkept, hdrained⟩ := ih (s := t) (by omega)
        exact ⟨u, hu, hend, hkept.trans (by rw [hframe]), hdrained⟩
      · exact absurd ((hagain t hgo).symm.trans hstop) nofun

/-- A loop that goes on at least as often delivers first what the other delivers (R68, R173). -/
theorem drainFor_prefix {again again' : State → Bool} (h : ∀ t, again t = true → again' t = true) (n : Nat) (s : State) :
    (drainFor again n s).1 <+: (drainFor again' n s).1 := by
  induction n generalizing s with
  | zero => exact List.prefix_rfl
  | succ n ih =>
    obtain ⟨t, ht, -⟩ := exec_poll_nil_cases s
    simp only [drainFor, ht]
    cases hgo : again t with
    | true =>
      rw [if_pos rfl, if_pos (h t hgo)]
      exact (List.prefix_append_right_inj _).mpr (ih t)
    | false =>
      rw [if_neg Bool.false_ne_true]
      split
      · exact List.prefix_append _ _
      · exact List.prefix_rfl

end Sys2Proof.Machine
end

section
/-! The statements of spec/43_receive.md about POLLs in a row (R114, R117), and of spec/70_reset_and_hazards.md about
draining (R173). -/

namespace Sys2Proof.Proofs

open Sys2Proof.Machine

/-- Settles O51: the kept buffer is the one that the next POLL, with no bytes, finds again. -/
theorem needMoreDataChangesNothingButTheAppend : Obligations.NeedMoreDataChangesNothingButTheAppend := by
  intro b s t p h hreply
  obtain ⟨id, hid, hparse, rfl⟩ := exec_poll_needMoreData h hreply
  exact ⟨rfl, (exec_poll_congr rfl hid (by simp)).trans h⟩

/-- Settles O52: the second POLL finds in the buffer what one POLL of all the bytes finds. -/
theorem splitPollEqualsOnePoll : Obligations.SplitPollEqualsOnePoll := by
  intro a b s t p h hreply
  obtain ⟨id, hid, -, rfl⟩ := exec_poll_needMoreData h hreply
  exact exec_poll_congr rfl hid (by rw [b2b_append, List.append_assoc])

/-- Settles O57: each loop ends with a POLL after which it does not go on, and R173's goes on at least as often as R68's. -/
theorem drainEndsWithoutAPayload : Obligations.DrainEndsWithoutAPayload := by
  intro s
  constructor
  · obtain ⟨t, ht, hend, hframe, -⟩ := drainFor_end (fun _ => resolvedFrame_of_delivered) (Nat.lt_succ_self s.rxbuf.length)
    rw [drain, ht]
    exact ⟨by simpa using hend, hframe⟩
  · obtain ⟨t, ht, hend, hframe, hdrained⟩ := drainFor_end (fun _ => id) (Nat.lt_succ_self s.rxbuf.length)
    obtain ⟨hstill, o, p, hreply, ho⟩ := hdrained hend
    refine ⟨t, (drainToEnd s).1, o, p, Prod.ext rfl ht, ?_, ?_, drainFor_prefix (fun _ => resolvedFrame_of_delivered) _ s,
      hstill⟩
    · rw [← hreply]
      exact hframe
    · rwa [hframe] at ho

end Sys2Proof.Proofs
end

section
/-! The statements about the step, reset, the tables and the buffer primitives (20_memory.md R31 to R34, R42, R46;
30_encoding.md R60, R62, R68; 70_reset_and_hazards.md R160, R178). -/

namespace Sys2Proof.Proofs

open Sys2Proof.Machine

/-- Settles O5: the seven words are evaluated. -/
theorem sampleWordsDecode : Obligations.SampleWordsDecode := by
  unfold Obligations.SampleWordsDecode
  decide

/-- Settles O6, by the two cases of the command port. -/
theorem stepRunsTheDecodedInstruction : Obligations.StepRunsTheDecodedInstruction :=
  ⟨fun _ _ _ _ hs hd => step_of_decode_ok hs hd, fun s hs => by rw [step, takeInput_nil hs]⟩

/-- Settles O12, by the value of each code. -/
theorem outcomeCodesAreTheTable : Obligations.OutcomeCodesAreTheTable := rfl

/-- Settles O15: the buffer, the channel and the reply are empty. -/
theorem resetMeetsTheInvariant : Obligations.ResetMeetsTheInvariant where
  buffer_empty _ := rfl
  writes := nofun
  reply_sound := nofun

/-- Settles O20: SETLOCAL answers `Ok` only where it wrote, and POLL does not read the reply. -/
theorem identifierWriteTakesEffectAtOnce : Obligations.IdentifierWriteTakesEffectAtOnce := by
  intro v s t newBytes h hreply
  cases hscan : dscan s.rxbuf with
  | none =>
    obtain rfl := Host.Outcome.next.inj ((exec_setlocal_of_dscan_none hscan v).symm.trans h)
    exact ⟨rfl, exec_poll_congr rfl rfl rfl⟩
  | some k =>
    obtain rfl := Host.Outcome.next.inj ((exec_setlocal_of_dscan_some hscan v).symm.trans h)
    cases hreply

/-- Settles O22: the second command finds the buffer cleared and clears it again. -/
theorem reopenIsEitherCommandAlone : Obligations.ReopenIsEitherCommandAlone :=
  fun _ => ⟨rfl, rfl⟩

/-- Settles O47: a read and a removal are in range or fault, and their bits are those at the index and behind the count. -/
theorem bufferPrimitives : Obligations.BufferPrimitives := by
  intro i n s
  have hread (h : i + n ≤ s.rxbuf.length) := ((rxRead_cases i n s).resolve_right fun ho => absurd h (not_le.mpr ho.1)).2
  have hdrop (h : n ≤ s.rxbuf.length) := ((rxDrop_cases n s).resolve_right fun ho => absurd h (not_le.mpr ho.1)).2
  refine ⟨fun h => ⟨_, hread h, ?_, fun j hj => ?_⟩,
    fun h => ((rxRead_cases i n s).resolve_left fun hi => absurd hi.1 (not_le.mpr h)).2, ?_,
    fun h => ⟨_, hdrop h, rfl, fun j => List.getElem?_drop⟩,
    fun h => ((rxDrop_cases n s).resolve_left fun hi => absurd hi.1 (not_le.mpr h)).2, fun _ => rfl, rfl⟩
  · rw [List.length_take, List.length_drop]
    omega
  · rw [List.getElem?_take_of_lt hj, List.getElem?_drop]
  · rw [rxRead, if_pos (by omega), List.drop_zero, List.take_length, rxAll]

/-- Settles O58: the bound is only a test before the append. -/
theorem boundedBufferRefusesTheWholePoll : Obligations.BoundedBufferRefusesTheWholePoll := by
  refine fun cap max newBytes s => ⟨fun hover => ?_, fun hfits => ?_, rfl⟩
  · have hno : rxFits (some max) (8 * newBytes.length) s = false := by simpa using hover
    cases hid : s.localId <;> simp [pollWith, hid, hno, answer]
  · have hyes : rxFits (some max) (8 * newBytes.length) s = true := by simpa using hfits
    simp only [pollWith, hyes, rxFits_none]

end Sys2Proof.Proofs
end
